-- ==== Sys2Proof/Word.lean ====
section
/-!
DEFINITION. The words of the block: bytes, levels and the six-byte buffers (`00_scope.md` R10, `20_memory.md` R50, R51).
-/
namespace Sys2Proof

/-- An unsigned 8-bit value (R10). -/
abbrev Byte := BitVec 8

/-- A line level: `false` is 0 (low), `true` is 1 (high) (R10). -/
abbrev Level := Bool

/-- A buffer of CAP = 6 bytes, index 0 leftmost (R8, R50, R51). -/
abbrev Buf := Vector Byte 6

/-- The 64 bits of an IEEE 754 binary64 value: the default float format (R170). -/
abbrev Float64 := BitVec 64

end Sys2Proof
end

