-- ==== Sys2Proof/Machine/FloatScale.lean ====
section
/-!
DEFINITION. The default of FLOAT_SCALE, the open parameter of `41_encoder.md` R170: IEEE 754 binary64 arithmetic, the
product rounded to nearest even, truncated toward zero (log 17). All of it in exact integer arithmetic. A block's own
FLOAT_SCALE is `Params.scaleFloat`.
-/
namespace Sys2Proof.Machine

/-- A non-negative finite binary64 value `mant * 2^exp`. -/
structure FinFloat where
  mant : Nat
  exp : Int
  deriving DecidableEq, Repr

/-- The exponent field of a binary64 value. -/
def expField (f : Float64) : Nat := (f.extractLsb' 52 11).toNat

/-- The sign bit of a binary64 value. -/
def signBit (f : Float64) : Bool := f.getLsbD 63

/-- The magnitude of a binary64 value; none for NaN and the infinities. -/
def magnitude (f : Float64) : Option FinFloat :=
  if expField f = 2047 then none
  else if expField f = 0 then some { mant := (f.extractLsb' 0 52).toNat, exp := -1074 }
  else some { mant := 2 ^ 52 + (f.extractLsb' 0 52).toNat, exp := (expField f : Int) - 1075 }

/-- `floor(log2 (num / den))` for positive numbers. -/
def floorLog2Ratio (num den : Nat) : Int :=
  let k : Int := (Nat.log2 num : Int) - (Nat.log2 den : Int)
  if den * 2 ^ k.toNat ≤ num * 2 ^ (-k).toNat then k else k - 1

/-- The quotient rounded to nearest, ties to even. -/
def divNearestEven (num den : Nat) : Nat :=
  let q := num / den
  let r := num % den
  if 2 * r < den then q
  else if den < 2 * r then q + 1
  else q + q % 2

/-- RNE64 of the non-negative rational `num / den`; none where it overflows to infinity. -/
def rne64 (num den : Nat) : Option FinFloat :=
  if num = 0 then some { mant := 0, exp := -1074 }
  else
    let e : Int := max (floorLog2Ratio num den - 52) (-1074)
    let m := divNearestEven (num * 2 ^ (-e).toNat) (den * 2 ^ e.toNat)
    if 2 ^ 1024 * 2 ^ (-e).toNat ≤ m * 2 ^ e.toNat then none else some { mant := m, exp := e }

/-- `P = RNE64(10^p)`; none where it overflows. Outside -400..400 the result is known: infinity above (10^309 exceeds
every finite value) and zero below (10^-324 is under half of the least subnormal). -/
def powerOfTen (p : Int) : Option FinFloat :=
  if 400 < p then none
  else if p < -400 then some { mant := 0, exp := -1074 }
  else rne64 (10 ^ p.toNat) (10 ^ (-p).toNat)

/-- The numerator and denominator of a product of two finite values. -/
def productRatio (a b : FinFloat) : Nat × Nat :=
  let e := a.exp + b.exp
  (a.mant * b.mant * 2 ^ e.toNat, 2 ^ (-e).toNat)

/-- The integer part of a non-negative finite value: truncation toward zero. -/
def truncNat (a : FinFloat) : Nat := a.mant * 2 ^ a.exp.toNat / 2 ^ (-a.exp).toNat

/-- The default FLOAT_SCALE(f, p) (R170): none is the outcome Invalid. An infinite P makes the product infinite or, with f
zero, NaN: Invalid either way. -/
def floatScale (f : Float64) (p : Int) : Option Int :=
  match magnitude f, powerOfTen p with
  | some a, some b =>
    let n := productRatio a b
    match rne64 n.1 n.2 with
    | some q => some (if signBit f then -(truncNat q : Int) else (truncNat q : Int))
    | none => none
  | _, _ => none

end Sys2Proof.Machine
end

