-- ==== Sys2Proof/Syntax.lean ====
section
/-!
DEFINITION. The instructions of `spec/opcode_table.json`, one constructor a row (seven host commands, three
micro-operations, five wire bytes), the line actions of `30_encoding.md` R80, and the refusal reasons of
`60_exceptions.md` R243.
-/
namespace Sys2Proof

/-- One constructor per row of the opcode table. Host commands carry their brightness code (R73) and the arguments
R72 names for them; a micro-operation or wire byte carries its byte or brightness field. -/
inductive Instr where
  /-- INIT: installs the configuration (R190); `bright` is ignored. -/
  | init (bright : BitVec 3) (digitNum : Byte)
  /-- RAW: sends the data bytes as given (R194). -/
  | raw (bright : BitVec 3) (data : List Byte) (count : Nat)
  /-- BCD: encodes nibble values (R195). -/
  | bcd (bright : BitVec 3) (vals : List Byte) (count : Nat)
  /-- ASCII: encodes character codes (R196). -/
  | ascii (bright : BitVec 3) (text : List Byte)
  /-- INT: encodes a signed integer with a decimal point (R197). -/
  | int (bright : BitVec 3) (value : Int) (dpPos : Int)
  /-- FLOAT: scales a float, then encodes it (R198). -/
  | float (bright : BitVec 3) (fvalue : Float64) (precision : Int)
  /-- OFF: one display-control frame (R200); `bright` is ignored. -/
  | off (bright : BitVec 3)
  /-- START: the start condition (R101). -/
  | start
  /-- SENDBYTE: shifts out one byte and samples its ACK (R102). -/
  | sendByte (byte : Byte)
  /-- STOP: the stop condition (R109). -/
  | stop
  /-- DATA_CMD: the data-command byte (R77). -/
  | dataCmd
  /-- ADDR_SET0: the address-set byte, address 0 (R78). -/
  | addrSet0
  /-- DISP_CTRL_ON: the display-control byte, display on (R76). -/
  | dispCtrlOn (b : BitVec 3)
  /-- DISP_OFF: the byte OFF sends (R76, R200). -/
  | dispOff
  /-- SEGMENT_DATA: a data byte of phase 2 (R79). -/
  | segmentData (byte : Byte)
  deriving DecidableEq, Repr

/-- The micro-operations a frame is made of (R75, R111). -/
inductive MicroOp where
  | start
  | sendByte (byte : Byte)
  | stop
  deriving DecidableEq, Repr

/-- The direction of the DIO line (R24). -/
inductive DioMode where
  | out
  | inp
  deriving DecidableEq, Repr

/-- The line actions (R80). -/
inductive Action where
  /-- `gpioSet(pinCLK, v)` -/
  | clk (v : Level)
  /-- `gpioSet(pinDIO, v)` -/
  | dio (v : Level)
  /-- `gpioSwitch(pinDIO, m)` -/
  | mode (m : DioMode)
  /-- `delayUs(T_HOLD)` -/
  | wait
  /-- `gpioGet(pinDIO)` -/
  | sample
  /-- `debugPrint(DIAG_TEXT)` -/
  | diag
  deriving DecidableEq, Repr

/-- The reasons of a refused command (R243). -/
inductive RejReason where
  | reservedBits
  | reservedOpcode
  | notInitialised
  | digitNumRange
  | argLength
  | bcdRange
  | asciiRange
  | floatRange
  deriving DecidableEq, Repr

/-- The argument inputs beside the command word, all of them (R72). An opcode reads the ones it names. The signed ones
are mathematical integers (R10); the block reads them on ports of INT_WIDTH bits (`Params.toWidth`). -/
structure Args where
  digitNum : Byte
  data : List Byte
  vals : List Byte
  count : Nat
  text : List Byte
  value : Int
  dpPos : Int
  fvalue : Float64
  precision : Int
  deriving DecidableEq, Repr

/-- Argument inputs of zeros and empty sequences. -/
def Args.zero : Args :=
  { digitNum := 0, data := [], vals := [], count := 0, text := [], value := 0, dpPos := 0, fvalue := 0, precision := 0 }

/-- What the host presents with `cmd_valid = 1`: the command word and the argument inputs (R70, R82). -/
structure Request where
  cmdWord : Byte
  args : Args
  deriving DecidableEq, Repr

/-- Where a wire byte stands in its frame: first (a command byte), or after ADDR_SET0 (a data byte) (R57, R79). -/
inductive WirePos where
  | command
  | data
  deriving DecidableEq, Repr

/-- A word handed to the framer on its own: a 10-bit micro-operation word (R75) or a wire byte (R76-R79). -/
inductive FramerWord where
  | micro (w : BitVec 10)
  | wire (pos : WirePos) (b : Byte)
  deriving DecidableEq, Repr

/-- An encoded instruction, in the space its opcode-table row belongs to. -/
inductive Code where
  | host (r : Request)
  | framer (f : FramerWord)
  deriving DecidableEq, Repr

end Sys2Proof
end

