-- ==== Sys2Proof/Config.lean ====
section
/-!
DEFINITION. The configuration: the capacity of `00_scope.md` R8, the parameters a model takes as an argument (R9), the
registers of the reference receiver (`20_memory.md` R64), and the FREE VALUES, opaque constants that nothing in Lean can
evaluate. The defaults of the parameters and the constants R9 fixes stand in `Machine/Params.lean`.
-/
namespace Sys2Proof

/-- The line registers (`10_state.md` R23-R25). -/
structure Machine.Lines where
  /-- `clk_q`: the level driven on CLK (R23). -/
  clkQ : Level
  /-- `dio_mode`: the direction of DIO (R24). -/
  dioMode : DioMode
  /-- `dio_q`: the DIO output latch (R25). -/
  dioQ : Level
  deriving DecidableEq, Repr

/-- A point at which a block's FLOAT_SCALE is given: its outcome there, none for Invalid (`41_encoder.md` R170). -/
structure FloatPoint where
  fvalue : Float64
  precision : Int
  scaled : Option Int
  deriving DecidableEq, Repr

/-- The parameters of R9 that a model takes as an argument, as plain data. A state carries them (`State.params`), so a
claim about every state is a claim about every choice of them; what a choice must satisfy is `Params.legal`. -/
structure Parameters where
  /-- T_HOLD in microseconds (R9, `40_transport.md` R110). -/
  tHold : Nat
  /-- SEG_HEX (`20_memory.md` R53). -/
  segHexTable : Vector Byte 16
  /-- SEG_ASCII of the digits; the key set and the equality of cases are the source's (R54), so they are no parameter. -/
  segAsciiDigits : Vector Byte 10
  /-- SEG_ASCII of the letters A to F, in both cases (R54). -/
  segAsciiLetters : Vector Byte 6
  /-- SEG_ASCII of the point (R54). -/
  segAsciiPoint : Byte
  /-- SEG_MINUS (R55). -/
  segMinus : Byte
  /-- CMD_DATA (`30_encoding.md` R77). -/
  cmdData : Byte
  /-- CTRL_ON (R76). -/
  ctrlOn : Byte
  /-- CTRL_OFF_BYTE (R76, U8). -/
  ctrlOffByte : Byte
  /-- INT_WIDTH: the width of the signed integer inputs (R9, D3). -/
  intWidth : Nat
  /-- FLOAT_SCALE: the points at which it differs from its default (R170, U17; log 17). The arguments are finitely many
  for a given width, so every replacement is such a list. -/
  floatPoints : List FloatPoint
  /-- RESET_LINES: the lines after reset (R9, D9). -/
  resetLines : Machine.Lines
  deriving DecidableEq, Repr

/-- What the receiver was told about writes (R64: "mode <- write, auto-increment"). -/
inductive RxMode where
  | unset
  | writeAutoIncrement
  deriving DecidableEq, Repr, Inhabited

/-- The reference receiver's registers (R64). -/
structure RxRegs where
  mode : RxMode
  disp : Buf
  ptr : Nat
  ctrl : Byte
  deriving DecidableEq, Repr, Inhabited

namespace Config

/-- The digit capacity (R8). -/
abbrev cap : Nat := 6

/-- FREE VALUE: the level the receiver leaves on DIO at the n-th SAMPLE, a draw under no law (R12, D15, U11; log 4). -/
opaque dioLevel : Nat → Level

/-- FREE VALUE: the receiver's registers where the spec says "any value" (R64, R242, R272, U10, U21; log 13). -/
opaque receiverAny : Nat → RxRegs

/-- FREE VALUE: the text of the diagnostic message, any string (R9, U13, D23; log 18). -/
opaque diagText : String

end Config

end Sys2Proof
end

