-- ==== Sys2Proof/Machine/Params.lean ====
section
/-!
DEFINITION. The parameters of `00_scope.md` R9: the bytes R9 fixes, the tables and command bytes as functions of the
parameters a block has (`20_memory.md` R53-R55, `30_encoding.md` R76-R78), their defaults, and what a choice of them must
satisfy. PRESUMED by the spec itself where it marks a default as general knowledge (log 16).
-/
namespace Sys2Proof.Params

/-- SEG_BLANK, fixed: "A value of 0 means blank" (R55). -/
def segBlank : Byte := 0x00

/-- SEG_DP, fixed: "bit 7 selects the decimal point" (R55). -/
def segDp : Byte := 0x80

/-- CMD_ADDR0, fixed: address set, address 0 (R78). -/
def cmdAddr0 : Byte := 0xC0

/-- CTRL_BASE, fixed: the display-control base (R9, R76). -/
def ctrlBase : Byte := 0x80

/-- The default of SEG_HEX (R53; D6). -/
def segHexDefault : Vector Byte 16 :=
  #v[0x3F, 0x06, 0x5B, 0x4F, 0x66, 0x6D, 0x7D, 0x07, 0x7F, 0x6F, 0x77, 0x7C, 0x39, 0x5E, 0x79, 0x71]

/-- The parameters at the defaults this spec fixes for this hardware (R9, R53-R55, R76, R77; D5-D9, D16). -/
def defaults : Parameters :=
  { tHold := 3
    segHexTable := segHexDefault
    segAsciiDigits := #v[0x3F, 0x06, 0x5B, 0x4F, 0x66, 0x6D, 0x7D, 0x07, 0x7F, 0x6F]
    segAsciiLetters := #v[0x77, 0x7C, 0x39, 0x5E, 0x79, 0x71]
    segAsciiPoint := 0x80
    segMinus := 0x40
    cmdData := 0x40
    ctrlOn := 0x08
    ctrlOffByte := 0x80
    intWidth := 32
    floatPoints := []
    resetLines := { clkQ := true, dioMode := .out, dioQ := true } }

/-- SEG_HEX[v]; it is applied to v in 0..15 only (R141). -/
def segHex (p : Parameters) (v : Nat) : Byte := p.segHexTable.toList.getD v segBlank

/-- SEG_ASCII[c]; it is applied to c in 0..127 only (R54, R142; D7). -/
def segAscii (p : Parameters) (c : Nat) : Byte :=
  if 0x30 ≤ c ∧ c ≤ 0x39 then p.segAsciiDigits.toList.getD (c - 0x30) segBlank
  else if 0x41 ≤ c ∧ c ≤ 0x46 then p.segAsciiLetters.toList.getD (c - 0x41) segBlank
  else if 0x61 ≤ c ∧ c ≤ 0x66 then p.segAsciiLetters.toList.getD (c - 0x61) segBlank
  else if c = 0x2E then p.segAsciiPoint
  else segBlank

/-- The display-control byte that RAW, BCD, ASCII, INT and FLOAT send: `CTRL_BASE | CTRL_ON | bright` (R76). -/
def ctrlByte (p : Parameters) (bright : BitVec 3) : Byte := ctrlBase ||| p.ctrlOn ||| bright.setWidth 8

/-- The outcome of the first of the given points that is at these arguments, if one is. -/
def pointAt (f : Float64) (precision : Int) : List FloatPoint → Option FloatPoint
  | [] => none
  | x :: xs => if x.fvalue = f ∧ x.precision = precision then some x else pointAt f precision xs

/-- FLOAT_SCALE(f, p) of a block; none is the outcome Invalid (R170). -/
def scaleFloat (p : Parameters) (f : Float64) (precision : Int) : Option Int :=
  match pointAt f precision p.floatPoints with
  | some x => x.scaled
  | none => Machine.floatScale f precision

/-- The value a signed port of INT_WIDTH bits carries: two's complement (R10; D3). On the legal range it is the
argument itself; outside it the high bits are not there (log 32). -/
def toWidth (p : Parameters) (v : Int) : Int := v.bmod (2 ^ p.intWidth)

/-- A value of the signed width, Int32 by default (R10). That R171's Int32 is this width too is the model's choice (log
33). -/
def inWidth (p : Parameters) (v : Int) : Bool :=
  decide (-2 ^ (p.intWidth - 1) ≤ v) && decide (v ≤ 2 ^ (p.intWidth - 1) - 1)

/-- R170: a replacement of FLOAT_SCALE gives 1234 for 12.34 and 2, and 0 for minus zero. -/
def floatPointLegal (x : FloatPoint) : Bool :=
  (decide ¬(x.fvalue = 0x4028AE147AE147AE ∧ x.precision = 2) || decide (x.scaled = some 1234)) &&
  (decide ¬(x.fvalue = 0x8000000000000000) || decide (x.scaled = some 0))

/-- What the parameters must satisfy: `T_HOLD >= 2` (R9, R110); P1, P2 and P3 of SEG_HEX (R53); the keys of SEG_ASCII are
not blank (R54); the bases 0x40 and 0x80 of the command bytes, with the power bit outside the base and the brightness,
set in CTRL_ON and clear in CTRL_OFF_BYTE (R76, R77; D5); a signed width; R170's demands on FLOAT_SCALE. -/
def legal (p : Parameters) : Bool :=
  decide (2 ≤ p.tHold) &&
  (p.segHexTable.toList.all fun b => !b.getLsbD 7 && decide (b ≠ 0) && decide (b ≠ p.segMinus)) &&
  decide p.segHexTable.toList.Nodup &&
  (p.segAsciiDigits.toList.all fun b => decide (b ≠ 0)) &&
  (p.segAsciiLetters.toList.all fun b => decide (b ≠ 0)) &&
  decide (p.segAsciiPoint ≠ 0) &&
  decide (p.cmdData.extractLsb' 6 2 = 0b01#2) &&
  decide (p.ctrlOn ≠ 0 ∧ p.ctrlOn &&& 0xC7 = 0) &&
  decide (p.ctrlOffByte.extractLsb' 6 2 = 0b10#2 ∧ p.ctrlOffByte &&& p.ctrlOn = 0) &&
  decide (1 ≤ p.intWidth) &&
  p.floatPoints.all floatPointLegal

/-- The code of a refusal reason on `rej` (R243). -/
def rejCode : RejReason → Nat
  | .reservedBits => 1
  | .reservedOpcode => 2
  | .notInitialised => 3
  | .digitNumRange => 4
  | .argLength => 5
  | .bcdRange => 6
  | .asciiRange => 7
  | .floatRange => 8

end Sys2Proof.Params
end

