-- ==== Sys2Proof/Decode.lean ====
section
/-!
DEFINITION. Decoding and encoding in the block's three spaces: the host command word (`30_encoding.md` R70-R74), the
micro-operation word (R75) and the wire bytes (R76-R79). Decoding is total and rejects by name. The encoder stands
after the decoder.
-/
namespace Sys2Proof

/-- Why a word is no instruction. -/
inductive DecodeError where
  /-- `cmd_word[7:6] != 0` (R74). -/
  | reservedBits
  /-- `op = 0b111` (R74). -/
  | reservedOpcode
  /-- Micro-operation kind `0b11` (R75, U7). -/
  | reservedMicroKind
  /-- START or STOP with a non-zero byte field, which is no row of the table (R75). -/
  | microByteNotZero
  /-- A byte in command position that is none of R76-R78. -/
  | notWireCommand
  deriving DecidableEq, Repr

/-- Field `op`, bits 2:0 of the command word (R70). -/
abbrev opField (w : Byte) : BitVec 3 := w.extractLsb' 0 3

/-- Field `bright`, bits 5:3 of the command word (R70). -/
abbrev brightField (w : Byte) : BitVec 3 := w.extractLsb' 3 3

/-- Field `rsv`, bits 7:6 of the command word (R70). -/
abbrev rsvField (w : Byte) : BitVec 2 := w.extractLsb' 6 2

/-- The command a request asks for; reserved bits are tested before the reserved opcode (R71, R74, R244). -/
def decodeHost (r : Request) : Except DecodeError Instr :=
  let b := brightField r.cmdWord
  if rsvField r.cmdWord ≠ 0 then .error .reservedBits
  else if opField r.cmdWord = 0 then .ok (.init b r.args.digitNum)
  else if opField r.cmdWord = 1 then .ok (.raw b r.args.data r.args.count)
  else if opField r.cmdWord = 2 then .ok (.bcd b r.args.vals r.args.count)
  else if opField r.cmdWord = 3 then .ok (.ascii b r.args.text)
  else if opField r.cmdWord = 4 then .ok (.int b r.args.value r.args.dpPos)
  else if opField r.cmdWord = 5 then .ok (.float b r.args.fvalue r.args.precision)
  else if opField r.cmdWord = 6 then .ok (.off b)
  else .error .reservedOpcode

/-- Field `k`, bits 9:8 of the micro-operation word (R75). -/
abbrev kindField (w : BitVec 10) : BitVec 2 := w.extractLsb' 8 2

/-- Field `byte`, bits 7:0 of the micro-operation word (R75). -/
abbrev byteField (w : BitVec 10) : Byte := w.extractLsb' 0 8

/-- The micro-operation of a 10-bit word (R75). -/
def decodeMicro (w : BitVec 10) : Except DecodeError MicroOp :=
  if kindField w = 1 then .ok (.sendByte (byteField w))
  else if kindField w = 3 then .error .reservedMicroKind
  else if byteField w ≠ 0 then .error .microByteNotZero
  else if kindField w = 0 then .ok .start
  else .ok .stop

/-- A micro-operation as an instruction. -/
def MicroOp.toInstr : MicroOp → Instr
  | .start => .start
  | .sendByte b => .sendByte b
  | .stop => .stop

/-- The wire byte in command position, of a block with these parameters (R76-R78, R200). -/
def decodeWireCommand (p : Parameters) (b : Byte) : Except DecodeError Instr :=
  if b = p.cmdData then .ok .dataCmd
  else if b = Params.cmdAddr0 then .ok .addrSet0
  else if b = p.ctrlOffByte then .ok .dispOff
  else if b &&& 0xF8 = Params.ctrlBase ||| p.ctrlOn then .ok (.dispCtrlOn (b.extractLsb' 0 3))
  else .error .notWireCommand

/-- Decoding, in every space, for a block with these parameters. A byte in data position is a segment byte whatever its
value (R79). -/
def decode (p : Parameters) : Code → Except DecodeError Instr
  | .host r => decodeHost r
  | .framer (.micro w) => (decodeMicro w).map MicroOp.toInstr
  | .framer (.wire .command b) => decodeWireCommand p b
  | .framer (.wire .data b) => .ok (.segmentData b)

/-- The command word `(bright << 3) | op` (R70, R83). -/
def hostWord (bright : BitVec 3) (op : BitVec 3) : Byte := (0#2 ++ bright) ++ op

/-- The 10-bit word of a micro-operation (R75). -/
def encodeMicro : MicroOp → BitVec 10
  | .start => 0b00#2 ++ 0#8
  | .sendByte b => 0b01#2 ++ b
  | .stop => 0b10#2 ++ 0#8

/-- The words of an instruction (R70-R79); arguments an opcode does not name are zeros, since they are ignored (R72). -/
def encode (p : Parameters) : Instr → Code
  | .init b d => .host ⟨hostWord b 0, { Args.zero with digitNum := d }⟩
  | .raw b data count => .host ⟨hostWord b 1, { Args.zero with data := data, count := count }⟩
  | .bcd b vals count => .host ⟨hostWord b 2, { Args.zero with vals := vals, count := count }⟩
  | .ascii b text => .host ⟨hostWord b 3, { Args.zero with text := text }⟩
  | .int b v dp => .host ⟨hostWord b 4, { Args.zero with value := v, dpPos := dp }⟩
  | .float b f p => .host ⟨hostWord b 5, { Args.zero with fvalue := f, precision := p }⟩
  | .off b => .host ⟨hostWord b 6, Args.zero⟩
  | .start => .framer (.micro (encodeMicro .start))
  | .sendByte b => .framer (.micro (encodeMicro (.sendByte b)))
  | .stop => .framer (.micro (encodeMicro .stop))
  | .dataCmd => .framer (.wire .command p.cmdData)
  | .addrSet0 => .framer (.wire .command Params.cmdAddr0)
  | .dispCtrlOn b => .framer (.wire .command (Params.ctrlByte p b))
  | .dispOff => .framer (.wire .command p.ctrlOffByte)
  | .segmentData b => .framer (.wire .data b)

/-- Where a word of the opcode table is handed in. Words of more than one byte are micro-operation words. Of the
one-byte words those with bits 7:6 = 0 are host command words, with arguments of zeros; no host command has another
value there, so the others are wire bytes: a command byte where R76-R78 name it, else a segment byte (log 22). -/
def codeOfTableWord (p : Parameters) (nbits w : Nat) : Code :=
  if 8 < nbits then .framer (.micro (BitVec.ofNat 10 w))
  else if rsvField (BitVec.ofNat 8 w) = 0 then .host ⟨BitVec.ofNat 8 w, Args.zero⟩
  else
    match decodeWireCommand p (BitVec.ofNat 8 w) with
    | .ok _ => .framer (.wire .command (BitVec.ofNat 8 w))
    | .error _ => .framer (.wire .data (BitVec.ofNat 8 w))

/-- The instruction the decoder reads from a word of the opcode table, which has the default command bytes; none where it
refuses, or where the word has bits above the ten of a micro-operation word or the eight of a byte. -/
def decodeTableWord (nbits w : Nat) : Option Instr :=
  if (if 8 < nbits then 2 ^ 10 else 2 ^ 8) ≤ w then none
  else
    match decode Params.defaults (codeOfTableWord Params.defaults nbits w) with
    | .ok i => some i
    | .error _ => none

end Sys2Proof
end

