-- ==== Sys2Proof/Machine/State.lean ====
section
/-!
DEFINITION. The state of the block as plain data (`10_state.md` R20-R40), its ports (`30_encoding.md` R80, R82), the
reference receiver beside it (`20_memory.md` R64), and the state after reset (R40, `70_reset_and_hazards.md` R270).
-/
namespace Sys2Proof.Machine

/-- The reasons a step stops the machine. No instruction's meaning ends in one. -/
inductive Fault where
  /-- Raised by `step` when `framerIn` holds a word that is no micro-operation: kind 0b11, or START or STOP with a
  non-zero byte (R75). U7 calls it a `fault`, an unreachable case. Safe: the sequencer never produces it. -/
  | reservedMicroOp
  /-- Raised by `step` when `framerIn` holds a byte in command position that is no wire command byte (R76-R78). Safe:
  the sequencer never produces it. -/
  | notWireCommand
  deriving DecidableEq, Repr

/-- The reasons for no meaning. -/
inductive Refusal where
  /-- Raised by `exec` for an instruction with no meaning yet. Safe: the machine stops. No arm raises it now. -/
  | notModelled (mnemonic : String)
  deriving DecidableEq, Repr

/-- The idle line state of R100, also the default of RESET_LINES (R9, R40). -/
def Lines.idle : Lines := { clkQ := true, dioMode := .out, dioQ := true }

/-- The reference receiver: its registers (R64) and the frame it is taking in. -/
structure Receiver where
  regs : RxRegs
  /-- Between a start and a stop condition (R61). -/
  inFrame : Bool
  /-- Data bits of the current byte taken so far, 0..8. -/
  nbits : Nat
  /-- The current byte, bit 0 taken first (R56). -/
  shift : Byte
  /-- The bytes of this frame, oldest first. -/
  frame : List Byte
  /-- Every byte of this frame was acknowledged so far (R64). -/
  acked : Bool
  /-- MODEL'S OWN: free values taken so far (log 13). -/
  unknowns : Nat
  deriving DecidableEq, Repr

/-- What a host and a receiver can observe, in order (R6, R80, R82). -/
inductive Event where
  | clk (v : Level)
  | dio (v : Level)
  | mode (m : DioMode)
  | wait
  /-- SAMPLE, with the level it read. -/
  | sample (a : Level)
  /-- The DIAG action, with its text. -/
  | diag (text : String)
  /-- The done event, with `result_ok`. -/
  | done (ok : Bool)
  /-- The rej event, with its reason code (R243). -/
  | rej (code : Nat)
  /-- A step under reset (R270). -/
  | reset
  deriving DecidableEq, Repr

/-- The state of the block, of its ports and of the reference receiver, with the parameters it is built with. -/
structure State where
  /-- The parameters of the block (R9). No register: no step writes them (log 16). -/
  params : Parameters
  /-- `cfg_valid` (R21). -/
  cfgValid : Bool
  /-- `cfg_digit_num` (R22). -/
  cfgDigitNum : BitVec 3
  /-- `clk_q`, `dio_mode`, `dio_q` (R23-R25). -/
  lines : Lines
  /-- `busy` (R26). -/
  busy : Bool
  /-- `cur`: the latched command (R27); decoded, so the arguments its opcode does not name are gone (log 29). -/
  cur : Option Instr
  /-- `pc` (R28). -/
  pc : Nat
  /-- The DIAG step of the completion is done (R31; log 8). -/
  diagSent : Bool
  /-- `ack_last` (R29). -/
  ackLast : Bool
  /-- `acc` (R30). -/
  acc : Bool
  /-- `result_ok` (R31). -/
  resultOk : Bool
  /-- `ebuf[0..5]` (R32). -/
  ebuf : Buf
  /-- `dbuf[0..5]` (R33). -/
  dbuf : Buf
  /-- `dcount` (R33). -/
  dcount : BitVec 3
  /-- The sticky, model-only mark of R245. -/
  refused : Bool
  /-- INPUT: `rst` (R270; log 3). -/
  rst : Bool
  /-- INPUT: the requests the host presents, the first on `cmd_valid`, `cmd_word` and the arguments (R82; log 2). -/
  host : List Request
  /-- MODEL'S OWN INPUT: a word handed to the framer on its own; no step sets it (log 10). -/
  framerIn : Option FramerWord
  /-- INPUT: the levels the receiver leaves on DIO at the coming SAMPLEs; then the free value (R12; log 4). -/
  dioIn : List Level
  /-- MODEL'S OWN: SAMPLEs so far, the argument of the free value (log 4). -/
  draws : Nat
  /-- OUTPUT: what was observed, newest first (log 9). -/
  trace : List Event
  /-- The reference receiver, informative (R64; log 12). -/
  rcv : Receiver
  deriving DecidableEq, Repr

/-- The receiver at power-up: R64 leaves it unknown; the values are named in log 14. -/
def Receiver.powerUp : Receiver :=
  { regs := { mode := .unset, disp := Vector.replicate 6 0, ptr := 0, ctrl := 0 }
    inFrame := false, nbits := 0, shift := 0, frame := [], acked := true, unknowns := 0 }

/-- The machine right after reset (R40, R270), with the parameters at their defaults. The registers R40 calls
unspecified hold the values of logs 5 and 6. -/
def State.reset : State :=
  { params := Params.defaults
    cfgValid := false, cfgDigitNum := 1, lines := Lines.idle
    busy := false, cur := none, pc := 0, diagSent := false
    ackLast := false, acc := false, resultOk := false
    ebuf := Vector.replicate 6 0, dbuf := Vector.replicate 6 0, dcount := 0
    refused := false
    rst := false, host := [], framerIn := none, dioIn := [], draws := 0
    trace := [], rcv := Receiver.powerUp }

end Sys2Proof.Machine
end

