-- ==== Sys2Proof/Machine/Flags.lean ====
section
/-!
DEFINITION. The flags: `ack_last` (`10_state.md` R29) and the success accumulator `acc` (R30). The block has no other
condition codes (R34).
-/
namespace Sys2Proof.Machine

/-- The ACK of a sampled level: asserted when low (R105). -/
def ackOf (a : Level) : Bool := !a

/-- The flag writes of SAMPLE, in the order of R106: `ack_last`, then `acc`, a conjunction of computed values (R108). -/
def State.recordAck (a : Level) (s : State) : State :=
  { s with ackLast := ackOf a, acc := s.acc && ackOf a }

end Sys2Proof.Machine
end

