-- ==== Sys2Proof/Machine/Receiver.lean ====
section
/-!
DEFINITION. The reference receiver of `20_memory.md` R64: informative, not part of the block, read by no rule of it
(D30). It sees the lines: a start condition opens a frame, a stop condition closes it (R61), each rising CLK edge in a
frame takes a bit (D42), bit 0 first (R56), and every ninth is the ACK clock (R112). Frame conditions are the DIO
actions of START and STOP only; the ACK-return edge of R281 has no effect here, since the rule says the receiver's
reaction to it is not modelled (log 12).
-/
namespace Sys2Proof.Machine

/-- Writes `xs` into a buffer from index `at_` on; indexes past the buffer are dropped. -/
def writeFrom (buf : Buf) (at_ : Nat) : List Byte → Buf
  | [] => buf
  | x :: xs => writeFrom (buf.setIfInBounds at_ x) (at_ + 1) xs

/-- R64's reading of one frame whose bytes were all acknowledged; `none` where R64 gives no reading. `ptr` after a
data frame follows from auto-increment (R52; DEDUCED, log 15). -/
def interpretFrame (p : Parameters) (regs : RxRegs) : List Byte → Option RxRegs
  | [] => none
  | c :: ds =>
    if c = Params.cmdAddr0 then
      if ds.length ≤ Config.cap then some { regs with disp := writeFrom regs.disp 0 ds, ptr := ds.length } else none
    else if ds ≠ [] then none
    else if c = p.cmdData then some { regs with mode := .writeAutoIncrement }
    else if c.extractLsb' 6 2 = 0b10#2 then some { regs with ctrl := c }
    else none

/-- No frame in progress. -/
def Receiver.noFrame (r : Receiver) : Receiver :=
  { r with inFrame := false, nbits := 0, shift := 0, frame := [], acked := true }

/-- The registers become any value (R64, R242, R272; log 13). -/
def Receiver.unknown (r : Receiver) : Receiver :=
  { r with regs := Config.receiverAny r.unknowns, unknowns := r.unknowns + 1 }

/-- A start condition opens a frame (R61). -/
def Receiver.startCondition (r : Receiver) : Receiver := { r.noFrame with inFrame := true }

/-- A stop condition closes the frame, which is then read whole (R64). -/
def Receiver.stopCondition (p : Parameters) (r : Receiver) : Receiver :=
  if r.inFrame then
    if r.acked then
      match interpretFrame p r.regs r.frame with
      | some regs => { r with regs := regs }.noFrame
      | none => r.unknown.noFrame
    else r.unknown.noFrame
  else r

/-- A rising CLK edge with DIO at `level`: a data bit, or after eight of them the ACK clock (R103, R104; D42). -/
def Receiver.risingEdge (level : Level) (r : Receiver) : Receiver :=
  if r.inFrame then
    if r.nbits < 8 then
      { r with shift := r.shift ||| ((BitVec.ofBool level).setWidth 8 <<< r.nbits), nbits := r.nbits + 1 }
    else { r with frame := r.frame ++ [r.shift], shift := 0, nbits := 0 }
  else r

/-- The receiver answers an ACK slot with the level `a`; low acknowledges (R13, R105). -/
def Receiver.answer (a : Level) (r : Receiver) : Receiver := { r with acked := r.acked && !a }

/-- The completion of a command: after one with an AckFailure the registers are any value (R242), also where a later
frame of it was acknowledged. -/
def Receiver.afterCommand (ok : Bool) (r : Receiver) : Receiver := if ok then r else r.unknown

/-- The block's reset, with the block busy or not: a command cut short leaves the registers at any value (R272). DESIGN
CHOICE (logs 13 and 26): the frame in progress, which is the model's own state, is dropped; the spec does not say whether
a receiver still stands in a frame that reset cut short. -/
def Receiver.cutShort (busy : Bool) (r : Receiver) : Receiver :=
  if busy || r.inFrame then r.unknown.noFrame else r

end Sys2Proof.Machine
end

