-- ==== Sys2Proof/Machine/Ops.lean ====
section
/-!
DEFINITION. The shared operations: the line actions (`30_encoding.md` R80, R81), acceptance and refusal of a command
(`42_sequencer.md` R191, `60_exceptions.md` R243-R245), completion (`10_state.md` R31) and reset
(`70_reset_and_hazards.md` R270, R272). The block has no exception entry and no return from one (R241): what an error
does is `recordAck` (AckFailure, R242) and `State.refuse`; what ends a command is `State.finish`.
-/
namespace Sys2Proof.Machine

/-- The three outcomes of a step of this machine. -/
abbrev Result := Host.Outcome State Fault Refusal

/-- Records an observed event. -/
def State.emit (e : Event) (s : State) : State := { s with trace := e :: s.trace }

/-- The output port `cmd_ready` (R82). -/
def State.cmdReady (s : State) : Bool := !s.busy

/-- The input port `cmd_valid` (R82). -/
def State.cmdValid (s : State) : Bool := !s.host.isEmpty

/-- The level of the CLK line (R23, R80). -/
def State.clkLevel (s : State) : Level := s.lines.clkQ

/-- The level of the DIO line when the receiver leaves it at `released`: low if the block drives 0 in OUT mode or the
receiver pulls it low, else high (R80; D25). -/
def Lines.dioLevel (l : Lines) (released : Level) : Level :=
  match l.dioMode with
  | .out => l.dioQ && released
  | .inp => released

/-- The level the receiver leaves on DIO at the next SAMPLE: the given input, then a draw (R12; log 4). -/
def State.receiverLevel (s : State) : Level :=
  match s.dioIn with
  | a :: _ => a
  | [] => Config.dioLevel s.draws

/-- The level the next SAMPLE reads. -/
def State.sampleLevel (s : State) : Level := s.lines.dioLevel s.receiverLevel

/-- CLK(v) (R81). -/
def State.setClk (v : Level) (s : State) : State :=
  { s with
    lines := { s.lines with clkQ := v }
    rcv := if !s.lines.clkQ && v then s.rcv.risingEdge s.lines.dioQ else s.rcv }

/-- DIO(v) (R81). While CLK is high and the block drives the line, a fall is a start condition and a rise a stop
condition (R61). -/
def State.setDio (v : Level) (s : State) : State :=
  { s with
    lines := { s.lines with dioQ := v }
    rcv :=
      if s.lines.clkQ && s.lines.dioMode = .out then
        if s.lines.dioQ && !v then s.rcv.startCondition
        else if !s.lines.dioQ && v then s.rcv.stopCondition s.params
        else s.rcv
      else s.rcv }

/-- MODE(m) (R81): the latch is unchanged (D14). -/
def State.setMode (m : DioMode) (s : State) : State := { s with lines := { s.lines with dioMode := m } }

/-- The next answer of the receiver is used up. -/
def State.takeLevel (s : State) : State := { s with dioIn := s.dioIn.tail, draws := s.draws + 1 }

/-- SAMPLE (R81): reads the DIO level and writes the flags (R106). -/
def State.sample (s : State) : State :=
  { s.takeLevel.recordAck s.sampleLevel with rcv := s.rcv.answer s.sampleLevel }

/-- One line action: its effect (R81) and its record. -/
def perform (a : Action) (s : State) : State :=
  match a with
  | .clk v => (s.setClk v).emit (.clk v)
  | .dio v => (s.setDio v).emit (.dio v)
  | .mode m => (s.setMode m).emit (.mode m)
  | .wait => s.emit .wait
  | .sample => s.sample.emit (.sample s.sampleLevel)
  | .diag => s.emit (.diag Config.diagText)

/-- Line actions in list order (R60). -/
def runActions : List Action → State → State
  | [], s => s
  | a :: as, s => runActions as (perform a s)

/-- The refusal of a command (R243): nothing is sent and no register is written; `rej` carries the code, and the
sticky mark is set (R245). A next state: the block stays idle and goes on. -/
def State.refuse (r : RejReason) (s : State) : State :=
  { s.emit (.rej (Params.rejCode r)) with refused := true }

/-- The latching of an accepted command (R191). -/
def State.latch (i : Instr) (s : State) : State :=
  { s with cur := some i, busy := true, pc := 0, acc := true, diagSent := false }

/-- The acceptance step of the host command `i` (R191): `prep` is its checks and preparation. While the block is busy
the command is not taken and the host waits (R26, U24; log 20). -/
def accept (i : Instr) (prep : State → Except RejReason State) (s : State) : Result :=
  if s.busy then .next s
  else
    match prep s with
    | .error r => .next (s.refuse r)
    | .ok t => .next (t.latch i)

/-- The check that comes first for every command but INIT (R244 item 3). -/
def requireConfig (k : State → Except RejReason State) (s : State) : Except RejReason State :=
  if s.cfgValid then k s else .error .notInitialised

/-- The end of a command (R31): `result_ok`, the done event, and the block idle; the reference receiver after it (R242). -/
def State.finish (s : State) : State :=
  { s.emit (.done s.acc) with
    resultOk := s.acc, busy := false, pc := 0, cur := none, diagSent := false
    rcv := s.rcv.afterCommand s.acc }

/-- The completion (R31): one DIAG step first when `acc = 0`, then the done step (D23). -/
def complete (s : State) : State :=
  if !s.acc && !s.diagSent then { perform .diag s with diagSent := true } else s.finish

/-- A step with `rst` asserted (R270, R272): the registers go to their reset values, the lines to RESET_LINES (R9),
and a running command is dropped with no done and no DIAG. The parameters, the inputs, the record and the sticky mark
stay (log 26). -/
def takeReset (s : State) : State :=
  { State.reset with
    params := s.params, lines := s.params.resetLines
    refused := s.refused
    rst := s.rst, host := s.host, framerIn := s.framerIn, dioIn := s.dioIn, draws := s.draws
    trace := .reset :: s.trace
    rcv := s.rcv.cutShort s.busy }

/-- What a step does with a word that is no instruction: a host word is refused (R74); a word in `framerIn` that no
sequencer produces is a fault (R75, U7; log 24). -/
def onDecodeError (e : DecodeError) (s : State) : Result :=
  match e with
  | .reservedBits => .next (s.refuse .reservedBits)
  | .reservedOpcode => .next (s.refuse .reservedOpcode)
  | .reservedMicroKind => .fault .reservedMicroOp
  | .microByteNotZero => .fault .reservedMicroOp
  | .notWireCommand => .fault .notWireCommand

end Sys2Proof.Machine
end

