-- ==== Sys2Proof/Machine/Operands.lean ====
section
/-!
DEFINITION. The operand forms of the host commands: the clamp of a count (`41_encoder.md` R150, `42_sequencer.md`
R194), the used part of a sequence, the window (R146), and the writes of the transmit buffer (`10_state.md` R33).
-/
namespace Sys2Proof.Machine

/-- `D = cfg_digit_num` as a number (R146). -/
def State.digits (s : State) : Nat := s.cfgDigitNum.toNat

/-- `min(count, D)`: counts are clamped, never overflowed (R150, R194; C11). -/
abbrev clampCount (count d : Nat) : Nat := min count d

/-- WINDOW(D): the rightmost D entries of the capacity buffer, leftmost first (R146; C5). -/
def window (ebuf : Buf) (d : Nat) : List Byte := ebuf.toList.drop (Config.cap - d)

/-- Loads bytes into `dbuf` from index 0 and sets `dcount` (R194). -/
def State.loadDbuf (xs : List Byte) (s : State) : State :=
  { s with dbuf := writeFrom s.dbuf 0 xs, dcount := BitVec.ofNat 3 xs.length }

/-- The end of an encoding command's preparation (R195-R198): the capacity buffer, then its window in `dbuf`. -/
def State.loadWindow (ebuf : Buf) (s : State) : State :=
  { s with ebuf := ebuf }.loadDbuf (window ebuf s.digits)

end Sys2Proof.Machine
end

