-- ==== Sys2Proof/Machine/Encoder.lean ====
section
/-!
DEFINITION. The segment encoder (`41_encoder.md` R140-R173). Each encoding checks its inputs, then gives the capacity
buffer it fills; the window of R146 is taken where the buffer is loaded (`State.loadWindow`). Encodings read no state
but the digit count, and the parameters (R147).
-/
namespace Sys2Proof.Machine

/-- CLEAR (R140). -/
def clearBuf : Buf := Vector.replicate 6 Params.segBlank

/-- RIGHT-ALIGN of a sequence of at most six segment bytes (R143). -/
def rightAlign (xs : List Byte) : Buf := writeFrom clearBuf (Config.cap - xs.length) xs

/-- BCD encode (R150, R151). -/
def encodeBcd (p : Parameters) (vals : List Byte) (count d : Nat) : Except RejReason Buf :=
  let c := clampCount count d
  if vals.length < c then .error .argLength
  else if (vals.take c).any (fun v => decide (15 < v.toNat)) then .error .bcdRange
  else .ok (rightAlign ((vals.take c).map fun v => Params.segHex p v.toNat))

/-- ASCII encode (R152, R153). -/
def encodeAscii (p : Parameters) (text : List Byte) (d : Nat) : Except RejReason Buf :=
  let c := clampCount text.length d
  if (text.take c).any (fun v => decide (127 < v.toNat)) then .error .asciiRange
  else .ok (rightAlign ((text.take c).map fun v => Params.segAscii p v.toNat))

/-- The digit byte DECIMAL writes at step `w` (R160-R162). -/
def digitByte (p : Parameters) (m : Nat) (dp : Int) (w : Nat) : Byte :=
  if dp = (w : Int) then Params.segHex p (m % 10) ||| Params.segDp else Params.segHex p (m % 10)

/-- The loop of DECIMAL (R160): `m` is the magnitude left, `w` the digits written so far. It gives the buffer and the
number of digits written. `fuel` bounds the passes; the loop exits at `w = CAP` (R161). -/
def decimalLoop (p : Parameters) (dp : Int) : (fuel m w : Nat) → Buf → Buf × Nat
  | 0, _, w, buf => (buf, w)
  | fuel + 1, m, w, buf =>
    let buf' := buf.setIfInBounds (Config.cap - 1 - w) (digitByte p m dp w)
    if w + 1 = Config.cap then (buf', w + 1)
    else if m / 10 = 0 ∧ dp + 1 ≤ ((w + 1 : Nat) : Int) then (buf', w + 1)
    else decimalLoop p dp fuel (m / 10) (w + 1) buf'

/-- DECIMAL encode (R160-R166). The magnitude is the mathematical absolute value (R161; D20). -/
def encodeDecimal (p : Parameters) (value dp : Int) : Buf :=
  let r := decimalLoop p dp Config.cap value.natAbs 0 clearBuf
  if value < 0 ∧ r.2 < Config.cap then r.1.setIfInBounds (Config.cap - 1 - r.2) p.segMinus else r.1

/-- `ndigits` by repeated division; `fuel` bounds the digits counted. -/
def ndigitsLoop : (fuel n : Nat) → Nat
  | 0, _ => 1
  | fuel + 1, n => if n < 10 then 1 else 1 + ndigitsLoop fuel (n / 10)

/-- `ndigits(n)`: 1 for 0, else `1 + floor(log10 n)` (R172). -/
def ndigits (n : Nat) : Nat := ndigitsLoop n n

/-- `FITS(s, dp, D)` (R172). -/
def fits (s dp : Int) (d : Nat) : Bool :=
  decide (max (ndigits s.natAbs) (if 0 ≤ dp then dp.toNat + 1 else 1) + (if s < 0 then 1 else 0) ≤ d)

/-- The decimal-point position of FLOAT: none for a precision of 0 or less (R171; C14). -/
def floatDp (precision : Int) : Int := if 0 < precision then precision else -1

/-- The scaled integer of FLOAT, if it is of the signed width (Int32 by default) and fits (R171, R172). DESIGN CHOICE (log
33): the range of the scaled integer follows INT_WIDTH, where R171 writes the bounds of Int32, the default width. -/
def floatInt (p : Parameters) (f : Float64) (precision : Int) (d : Nat) : Option Int :=
  match Params.scaleFloat p f precision with
  | none => none
  | some v =>
    if !Params.inWidth p v then none
    else if fits v (floatDp precision) d then some v
    else none

/-- FLOAT encode (R171-R173). -/
def encodeFloat (p : Parameters) (f : Float64) (precision : Int) (d : Nat) : Except RejReason Buf :=
  match floatInt p f precision d with
  | none => .error .floatRange
  | some v => .ok (encodeDecimal p v (floatDp precision))

end Sys2Proof.Machine
end

