-- ==== Sys2Proof/Machine/Commands.lean ====
section
/-!
DEFINITION. The host commands (`42_sequencer.md` R190-R200): the checks and preparation of each, and its acceptance
step. The line actions that follow are the sequencer's (`Machine/Sequencer.lean`). A failed check is a next state, the
refusal of `60_exceptions.md` R243.
-/
namespace Sys2Proof.Machine

/-- INIT's check and writes (R190). -/
def prepInit (digitNum : Byte) (s : State) : Except RejReason State :=
  if digitNum.toNat < 1 ∨ Config.cap < digitNum.toNat then .error .digitNumRange
  else .ok { s with cfgDigitNum := digitNum.setWidth 3, cfgValid := true }

/-- RAW's check and writes (R194). -/
def prepRaw (data : List Byte) (count : Nat) (s : State) : Except RejReason State :=
  let n := clampCount count s.digits
  if data.length < n then .error .argLength else .ok (s.loadDbuf (data.take n))

/-- The preparation of an encoding command: the encoder's refusal, or its buffer and window loaded (R195-R198). -/
def prepEncoded (enc : Parameters → Nat → Except RejReason Buf) (s : State) : Except RejReason State :=
  match enc s.params s.digits with
  | .error r => .error r
  | .ok ebuf => .ok (s.loadWindow ebuf)

/-- INIT (R190). -/
def execInit (bright : BitVec 3) (digitNum : Byte) (s : State) : Result :=
  accept (.init bright digitNum) (prepInit digitNum) s

/-- RAW (R194). -/
def execRaw (bright : BitVec 3) (data : List Byte) (count : Nat) (s : State) : Result :=
  accept (.raw bright data count) (requireConfig (prepRaw data count)) s

/-- BCD (R195). -/
def execBcd (bright : BitVec 3) (vals : List Byte) (count : Nat) (s : State) : Result :=
  accept (.bcd bright vals count) (requireConfig (prepEncoded fun p => encodeBcd p vals count)) s

/-- ASCII (R196). -/
def execAscii (bright : BitVec 3) (text : List Byte) (s : State) : Result :=
  accept (.ascii bright text) (requireConfig (prepEncoded fun p => encodeAscii p text)) s

/-- INT (R197): DECIMAL never refuses. The signed arguments come on ports of INT_WIDTH bits (R72). -/
def execInt (bright : BitVec 3) (value dpPos : Int) (s : State) : Result :=
  accept (.int bright value dpPos)
    (requireConfig (prepEncoded fun p _ => .ok (encodeDecimal p (Params.toWidth p value) (Params.toWidth p dpPos)))) s

/-- FLOAT (R198). -/
def execFloat (bright : BitVec 3) (fvalue : Float64) (precision : Int) (s : State) : Result :=
  accept (.float bright fvalue precision)
    (requireConfig (prepEncoded fun p => encodeFloat p fvalue (Params.toWidth p precision))) s

/-- OFF (R200): nothing to prepare; `dbuf`, `dcount` and `ebuf` stay. -/
def execOff (bright : BitVec 3) (s : State) : Result :=
  accept (.off bright) (requireConfig .ok) s

end Sys2Proof.Machine
end

