-- ==== Sys2Proof/Machine/Framer.lean ====
section
/-!
DEFINITION. The framer (`40_transport.md` R100-R113): the action lists of START, SENDBYTE and STOP, frames, and the
meanings of the three micro-operations. A micro-operation's meaning is its whole action list, performed in order; the
sequencer performs the same lists one action a step (`Machine/Sequencer.lean`).
-/
namespace Sys2Proof.Machine

/-- START (R101). -/
def startActions : List Action := [.dio false, .wait]

/-- One data bit of SENDBYTE (R103). -/
def bitActions (v : Level) : List Action := [.clk false, .dio v, .wait, .clk true, .wait]

/-- The ACK slot of SENDBYTE (R104). -/
def ackActions : List Action := [.mode .inp, .clk false, .wait, .sample, .clk true, .wait, .mode .out]

/-- The bits of a byte, least significant first (R56). -/
def bitsOf (b : Byte) : List Level := [0, 1, 2, 3, 4, 5, 6, 7].map b.getLsbD

/-- SENDBYTE (R102-R104). -/
def sendByteActions (b : Byte) : List Action := (bitsOf b).flatMap bitActions ++ ackActions

/-- STOP (R109). -/
def stopActions : List Action := [.clk false, .dio false, .wait, .clk true, .wait, .dio true, .wait]

/-- The action list of a micro-operation (R192). -/
def microActions : MicroOp → List Action
  | .start => startActions
  | .sendByte b => sendByteActions b
  | .stop => stopActions

/-- The actions of a micro-operation list (R192). -/
def actionsOf (ops : List MicroOp) : List Action := ops.flatMap microActions

/-- FRAME(bytes) (R111). -/
def frameOps (bytes : List Byte) : List MicroOp := .start :: bytes.map .sendByte ++ [.stop]

/-- The WAITs of an action list (R112, R287). -/
def waitCount (as : List Action) : Nat := as.countP (· = .wait)

/-- The SAMPLEs of an action list (R112). -/
def sampleCount (as : List Action) : Nat := as.countP (· = .sample)

/-- The least time of an action list in microseconds, each WAIT lasting at least T_HOLD (R110, R287). -/
def minTimeUs (p : Parameters) (as : List Action) : Nat := p.tHold * waitCount as

/-- START (R101). -/
def execStart (s : State) : Result := .next (runActions startActions s)

/-- SENDBYTE (R102). -/
def execSendByte (byte : Byte) (s : State) : Result := .next (runActions (sendByteActions byte) s)

/-- STOP (R109). -/
def execStop (s : State) : Result := .next (runActions stopActions s)

end Sys2Proof.Machine
end

