-- ==== Sys2Proof/Machine/Sequencer.lean ====
section
/-!
DEFINITION. The sequencer (`42_sequencer.md` R192, R193): the micro-operations of the latched command, their expansion
to line actions, and the step of a busy block (`10_state.md` R28, R31).
-/
namespace Sys2Proof.Machine

/-- DISPLAY(b): the three phases (R193). -/
def displayOps (p : Parameters) (bright : BitVec 3) (data : List Byte) : List MicroOp :=
  frameOps [p.cmdData] ++ frameOps (Params.cmdAddr0 :: data) ++ frameOps [Params.ctrlByte p bright]

/-- `Ops(i)` (R190, R193-R200), with `data` the bytes phase 2 sends. Micro-operations and wire bytes are never latched;
they have no list of their own. -/
def opsOf (p : Parameters) (i : Instr) (data : List Byte) : List MicroOp :=
  match i with
  | .init _ _ => []
  | .raw b _ _ => displayOps p b data
  | .bcd b _ _ => displayOps p b data
  | .ascii b _ => displayOps p b data
  | .int b _ _ => displayOps p b data
  | .float b _ _ => displayOps p b data
  | .off _ => frameOps [p.ctrlOffByte]
  | .start => []
  | .sendByte _ => []
  | .stop => []
  | .dataCmd => []
  | .addrSet0 => []
  | .dispCtrlOn _ => []
  | .dispOff => []
  | .segmentData _ => []

/-- The bytes phase 2 sends: `dbuf[0..dcount-1]` (R33, R193). -/
def State.phase2Data (s : State) : List Byte := s.dbuf.toList.take s.dcount.toNat

/-- `Ops(cur)` of the latched command; empty when there is none. -/
def State.ops (s : State) : List MicroOp :=
  match s.cur with
  | some i => opsOf s.params i s.phase2Data
  | none => []

/-- `Actions(cur)` (R192). -/
def State.actions (s : State) : List Action := actionsOf s.ops

/-- Performs an action and moves on (R28). -/
def State.advance (a : Action) (s : State) : State := { perform a s with pc := s.pc + 1 }

/-- One step of a busy block (R28, R31): the action at `pc`, or the completion when there is none left. -/
def busyStep (s : State) : State :=
  match s.actions[s.pc]? with
  | some a => s.advance a
  | none => complete s

end Sys2Proof.Machine
end

