-- ==== Sys2Proof/Machine/Wire.lean ====
section
/-!
DEFINITION. The wire bytes (`30_encoding.md` R76-R79): each is one byte on the wire followed by one ACK slot, sent by
SENDBYTE (log 11). What the reference receiver does with it, it does at the end of the frame (`20_memory.md` R64).
-/
namespace Sys2Proof.Machine

/-- One byte on the wire (R79, R102). -/
def sendWireByte (b : Byte) (s : State) : State := runActions (sendByteActions b) s

/-- DATA_CMD (R77). -/
def execDataCmd (s : State) : Result := .next (sendWireByte s.params.cmdData s)

/-- ADDR_SET0 (R78). -/
def execAddrSet0 (s : State) : Result := .next (sendWireByte Params.cmdAddr0 s)

/-- DISP_CTRL_ON with brightness code `b` (R76). -/
def execDispCtrlOn (b : BitVec 3) (s : State) : Result := .next (sendWireByte (Params.ctrlByte s.params b) s)

/-- DISP_OFF (R76, R200). -/
def execDispOff (s : State) : Result := .next (sendWireByte s.params.ctrlOffByte s)

/-- SEGMENT_DATA: any byte, sent unchanged (R79). -/
def execSegmentData (byte : Byte) (s : State) : Result := .next (sendWireByte byte s)

end Sys2Proof.Machine
end

