-- ==== Sys2Proof/Machine/Dispatch.lean ====
section
/-!
DEFINITION. One arm per constructor of Instr, each one call of that instruction's meaning.
-/
namespace Sys2Proof.Machine

def exec (i : Instr) (s : State) : Host.Outcome State Fault Refusal :=
  match i with
  | .init bright digitNum => Sys2Proof.Machine.execInit bright digitNum s
  | .raw bright data count => Sys2Proof.Machine.execRaw bright data count s
  | .bcd bright vals count => Sys2Proof.Machine.execBcd bright vals count s
  | .ascii bright text => Sys2Proof.Machine.execAscii bright text s
  | .int bright value dpPos => Sys2Proof.Machine.execInt bright value dpPos s
  | .float bright fvalue precision => Sys2Proof.Machine.execFloat bright fvalue precision s
  | .off bright => Sys2Proof.Machine.execOff bright s
  | .start => Sys2Proof.Machine.execStart s
  | .sendByte byte => Sys2Proof.Machine.execSendByte byte s
  | .stop => Sys2Proof.Machine.execStop s
  | .dataCmd => Sys2Proof.Machine.execDataCmd s
  | .addrSet0 => Sys2Proof.Machine.execAddrSet0 s
  | .dispCtrlOn b => Sys2Proof.Machine.execDispCtrlOn b s
  | .dispOff => Sys2Proof.Machine.execDispOff s
  | .segmentData byte => Sys2Proof.Machine.execSegmentData byte s

end Sys2Proof.Machine
end

