-- ==== Sys2Proof/Machine/Step.lean ====
section
/-!
DEFINITION. One step of the machine (`00_scope.md` R6; D31): reset first (`60_exceptions.md` R247), then a word in
`framerIn`, then the running command, then the host's request; with none of these the block is idle.
-/
namespace Sys2Proof.Machine

/-- Decodes a word and runs it. -/
def runCode (c : Code) (s : State) : Host.Outcome State Fault Refusal :=
  match decode s.params c with
  | .ok i => exec i s
  | .error e => onDecodeError e s

/-- One step. The request or word it runs is taken from its port. -/
def step (s : State) : Host.Outcome State Fault Refusal :=
  if s.rst then .next (takeReset s)
  else
    match s.framerIn with
    | some f => runCode (.framer f) { s with framerIn := none }
    | none =>
      if s.busy then .next (busyStep s)
      else
        match s.host with
        | [] => .next s
        | r :: rest => runCode (.host r) { s with host := rest }

/-- `s` with a word of the opcode table where the next step takes it: a host command word becomes the request the host
presents, with arguments of zeros, and the sequencer is idle; any other word is handed to the framer. Reset is not
asserted (log 23). -/
def State.withFetchWord (s : State) (nbits w : Nat) : State :=
  match codeOfTableWord s.params nbits w with
  | .host r =>
    { s with rst := false, framerIn := none, busy := false, cur := none, pc := 0, diagSent := false, host := r :: s.host }
  | .framer f => { s with rst := false, framerIn := some f }

end Sys2Proof.Machine
end

