-- ==== Sys2Proof/Machine/Assembler.lean ====
section
/-!
DEFINITION. The assembler syntax of `30_encoding.md` R83: one host command a line, numbers decimal or 0x hex, `b=` the
brightness (0 when omitted), `;` a comment to the end of the line. A line becomes the command word and arguments that
`encode` gives. How characters are read is the model's own choice where R83 is silent: which lines are outside the
grammar, the numbers that are read, the codes of a text, and the nearest binary64 value of a decimal number (log 31).
-/
namespace Sys2Proof.Machine

/-- The tokens of a line. -/
inductive Token where
  /-- A run of letters, digits and points: a mnemonic, `b`, or a number. -/
  | lit (cs : List Char)
  | str (cs : List Char)
  | sym (c : Char)
  deriving DecidableEq, Repr

/-- Where the lexer is in a line. -/
inductive LexMode where
  | between
  | inLit
  | inStr
  | inComment
  deriving DecidableEq, Repr

/-- The lexer: what it is in, the characters gathered and the tokens found, both newest first. -/
structure Lexer where
  mode : LexMode
  buf : List Char
  out : List Token
  deriving DecidableEq, Repr

/-- The double quote that opens and closes a text. -/
def quoteChar : Char := Char.ofNat 34

/-- A letter, a digit or a point. -/
def isLitChar (c : Char) : Bool := c.isAlphanum || c = '.'

/-- Ends a literal, if the lexer is in one. DESIGN CHOICE (log 31): a text that the line does not close leaves a bare
quote, which no operand begins with, so the line is not read. -/
def Lexer.flush (l : Lexer) : Lexer :=
  match l.mode with
  | .inLit => { mode := .between, buf := [], out := .lit l.buf.reverse :: l.out }
  | .between => l
  | .inStr => { mode := .between, buf := [], out := .sym quoteChar :: l.out }
  | .inComment => l

/-- A character outside texts and comments. Only the space separates (log 31). -/
def Lexer.plain (c : Char) (l : Lexer) : Lexer :=
  if isLitChar c then { l with mode := .inLit, buf := c :: l.buf }
  else if c = quoteChar then { l.flush with mode := .inStr, buf := [] }
  else if c = ';' then { l.flush with mode := .inComment }
  else if c = ' ' then l.flush
  else { l.flush with out := .sym c :: l.flush.out }

/-- One character. -/
def Lexer.next (c : Char) (l : Lexer) : Lexer :=
  match l.mode with
  | .inComment => l
  | .inStr => if c = quoteChar then { mode := .between, buf := [], out := .str l.buf.reverse :: l.out } else { l with buf := c :: l.buf }
  | .inLit => l.plain c
  | .between => l.plain c

/-- The lexer over a whole line. -/
def lexAll : List Char → Lexer → Lexer
  | [], l => l.flush
  | c :: cs, l => lexAll cs (l.next c)

/-- The tokens of a line. -/
def tokens (line : List Char) : List Token := (lexAll line { mode := .between, buf := [], out := [] }).out.reverse

/-- The value of a digit in a base of at most 16. -/
def digitValue (base : Nat) (c : Char) : Option Nat :=
  let v :=
    if '0'.toNat ≤ c.toNat ∧ c.toNat ≤ '9'.toNat then c.toNat - '0'.toNat
    else if 'a'.toNat ≤ c.toNat ∧ c.toNat ≤ 'f'.toNat then c.toNat - 'a'.toNat + 10
    else if 'A'.toNat ≤ c.toNat ∧ c.toNat ≤ 'F'.toNat then c.toNat - 'A'.toNat + 10
    else 16
  if v < base then some v else none

/-- Digits read after `acc`. -/
def readDigits (base : Nat) : List Char → Nat → Option Nat
  | [], acc => some acc
  | c :: cs, acc =>
    match digitValue base c with
    | some v => readDigits base cs (acc * base + v)
    | none => none

/-- A decimal or 0x number. DESIGN CHOICE (log 31): the prefix is `0x` alone, not `0X`; letters of either case are hex
digits. -/
def readNat : List Char → Option Nat
  | [] => none
  | '0' :: 'x' :: c :: cs => readDigits 16 (c :: cs) 0
  | c :: cs => readDigits 10 (c :: cs) 0

/-- A signed number at the head of a token list, with the rest. -/
def readInt : List Token → Option (Int × List Token)
  | .sym '-' :: .lit cs :: rest => (readNat cs).map fun n => (-(n : Int), rest)
  | .lit cs :: rest => (readNat cs).map fun n => ((n : Int), rest)
  | _ => none

/-- A signed argument of INT_WIDTH bits (R72). DESIGN CHOICE (log 31): a line with another value is not read. -/
def readSigned (p : Parameters) (ts : List Token) : Option (Int × List Token) :=
  match readInt ts with
  | some (v, rest) => if Params.inWidth p v then some (v, rest) else none
  | none => none

/-- A byte argument. -/
def readByte (cs : List Char) : Option Byte :=
  match readNat cs with
  | some n => if n < 256 then some (BitVec.ofNat 8 n) else none
  | none => none

/-- The rest of a bracketed byte sequence after an element; the bytes are gathered newest first. -/
def readBytesAux : List Token → List Byte → Option (List Byte × List Token)
  | .sym ']' :: rest, acc => some (acc.reverse, rest)
  | .sym ',' :: .lit cs :: rest, acc =>
    match readByte cs with
    | some b => readBytesAux rest (b :: acc)
    | none => none
  | _, _ => none

/-- A bracketed byte sequence: no element, or elements with one comma between each two. DESIGN CHOICE (log 31): a list with
a missing, repeated, leading or trailing comma is outside the grammar and is not read. -/
def readBytes : List Token → Option (List Byte × List Token)
  | .sym '[' :: .sym ']' :: rest => some ([], rest)
  | .sym '[' :: .lit cs :: rest =>
    match readByte cs with
    | some b => readBytesAux rest [b]
    | none => none
  | _ => none

/-- The bits of a finite magnitude with a sign. -/
def packFloat (neg : Bool) (a : FinFloat) : Float64 :=
  let m := if a.mant = 2 ^ 53 then 2 ^ 52 else a.mant
  let e := if a.mant = 2 ^ 53 then a.exp + 1 else a.exp
  let body := if m < 2 ^ 52 then BitVec.ofNat 63 m else BitVec.ofNat 63 ((e + 1075).toNat * 2 ^ 52 + (m - 2 ^ 52))
  BitVec.ofBool neg ++ body

/-- An unsigned number with or without a point, as numerator and denominator. DESIGN CHOICE (log 31): a point stands
between decimal digits, with at least one on each side, and there is no exponent; any other literal is not read. -/
def readDecimal (cs : List Char) : Option (Nat × Nat) :=
  let whole := cs.takeWhile (· ≠ '.')
  match cs.dropWhile (· ≠ '.') with
  | [] => (readNat cs).map fun n => (n, 1)
  | _ :: frac =>
    if whole = [] ∨ frac = [] then none
    else (readDigits 10 (whole ++ frac) 0).map fun n => (n, 10 ^ frac.length)

/-- An unsigned decimal number as a binary64 value. -/
def readFloatLit (neg : Bool) (cs : List Char) : Option Float64 :=
  match readDecimal cs with
  | some (num, den) => (rne64 num den).map (packFloat neg)
  | none => none

/-- A float argument. -/
def readFloat : List Token → Option (Float64 × List Token)
  | .sym '-' :: .lit cs :: rest => (readFloatLit true cs).map fun f => (f, rest)
  | .lit cs :: rest => (readFloatLit false cs).map fun f => (f, rest)
  | _ => none

/-- `b=<0..7>,` at the head of the operands; an omitted `b=` is 0. -/
def readBright : List Token → Option (BitVec 3 × List Token)
  | .lit ['b'] :: .sym '=' :: .lit cs :: .sym ',' :: rest =>
    match readNat cs with
    | some n => if n < 8 then some (BitVec.ofNat 3 n, rest) else none
    | none => none
  | ts => some (0, ts)

/-- `<int>, <int>` to the end of the line. -/
def readTwoInts (p : Parameters) (ts : List Token) : Option (Int × Int) :=
  match readSigned p ts with
  | some (v, .sym ',' :: rest) =>
    match readSigned p rest with
    | some (d, []) => some (v, d)
    | _ => none
  | _ => none

/-- `<float>, <int>` to the end of the line. -/
def readFloatInt (p : Parameters) (ts : List Token) : Option (Float64 × Int) :=
  match readFloat ts with
  | some (f, .sym ',' :: rest) =>
    match readSigned p rest with
    | some (d, []) => some (f, d)
    | _ => none
  | _ => none

/-- `[<byte>, ...], <count>` to the end of the line. -/
def readBytesCount (ts : List Token) : Option (List Byte × Nat) :=
  match readBytes ts with
  | some (data, [.sym ',', .lit cs]) => (readNat cs).map fun n => (data, n)
  | _ => none

/-- The character codes of a text (R72). DESIGN CHOICE (log 31): a character stands for its Unicode code point where that
is below 256, so a code above 127 can be written and is refused by ASCII (R152); a text with any other character is not
read. -/
def codesOf (cs : List Char) : Option (List Byte) :=
  if cs.all fun c => decide (c.toNat < 256) then some (cs.map fun c => BitVec.ofNat 8 c.toNat) else none

/-- The operands of a mnemonic that takes a brightness. -/
def assembleBright (p : Parameters) (mnemonic : List Char) (b : BitVec 3) (ts : List Token) : Option Instr :=
  if mnemonic = ['R', 'A', 'W'] then (readBytesCount ts).map fun r => .raw b r.1 r.2
  else if mnemonic = ['B', 'C', 'D'] then (readBytesCount ts).map fun r => .bcd b r.1 r.2
  else if mnemonic = ['I', 'N', 'T'] then (readTwoInts p ts).map fun r => .int b r.1 r.2
  else if mnemonic = ['F', 'L', 'O', 'A', 'T'] then (readFloatInt p ts).map fun r => .float b r.1 r.2
  else if mnemonic = ['A', 'S', 'C', 'I', 'I'] then
    match ts with
    | [.str cs] => (codesOf cs).map fun codes => .ascii b codes
    | _ => none
  else none

/-- The command of one line; none where the line is not of R83's syntax, as the readers above take it (log 31). -/
def assembleLine (p : Parameters) (line : List Char) : Option Instr :=
  match tokens line with
  | [.lit ['I', 'N', 'I', 'T'], .lit cs] => (readByte cs).map fun d => .init 0 d
  | [.lit ['O', 'F', 'F']] => some (.off 0)
  | .lit m :: ts =>
    match readBright ts with
    | some (b, rest) => assembleBright p m b rest
    | none => none
  | _ => none

/-- The request of one line: the command word `(bright << 3) | op` and the arguments (R83). -/
def assembleRequest (p : Parameters) (line : List Char) : Option Request :=
  match assembleLine p line with
  | some i =>
    match encode p i with
    | .host r => some r
    | .framer _ => none
  | none => none

end Sys2Proof.Machine
end

