-- ==== Sys2Proof/WellFormed.lean ====
section
/-!
DEFINITION. Well-formed instructions: the legal argument values of `30_encoding.md` R72, for every digit count the
block can hold. A well-formed command meets the caller contract whatever `cfg_digit_num` is, but for FLOAT's fit
(`41_encoder.md` R172), which depends on it (log 30).
-/
namespace Sys2Proof

/-- R72: `digit_num` legal 1..6; `len >= min(count, cfg_digit_num)`; BCD values legal 0..15; character codes legal
0..127; signed arguments of INT_WIDTH bits; a float that scales to a signed integer of that width (R170, R172; log 33). Every
other operand is legal by its type. -/
def Instr.WellFormed (p : Parameters) : Instr → Bool
  | .init _ d => decide (1 ≤ d.toNat) && decide (d.toNat ≤ Config.cap)
  | .raw _ data count => decide (min count Config.cap ≤ data.length)
  | .bcd _ vals count => decide (min count Config.cap ≤ vals.length) && vals.all fun v => decide (v.toNat ≤ 15)
  | .ascii _ text => text.all fun c => decide (c.toNat ≤ 127)
  | .int _ value dpPos => Params.inWidth p value && Params.inWidth p dpPos
  | .float _ f precision => Params.inWidth p precision && (Params.scaleFloat p f precision).any (Params.inWidth p)
  | .off _ => true
  | .start => true
  | .sendByte _ => true
  | .stop => true
  | .dataCmd => true
  | .addrSet0 => true
  | .dispCtrlOn _ => true
  | .dispOff => true
  | .segmentData _ => true

end Sys2Proof
end

