-- ==== Sys2Proof/Safety.lean ====
section
/-!
DEFINITION. The terms claims are stated in: the kinds of instruction, the effect of actions on the lines, the events an
action list leaves, a run with no refusal (`60_exceptions.md` R245), and the invariants of the machine.
-/
namespace Sys2Proof

/-- A host command (R71). -/
def Instr.isHost : Instr → Bool
  | .init _ _ => true
  | .raw _ _ _ => true
  | .bcd _ _ _ => true
  | .ascii _ _ => true
  | .int _ _ _ => true
  | .float _ _ _ => true
  | .off _ => true
  | .start => false
  | .sendByte _ => false
  | .stop => false
  | .dataCmd => false
  | .addrSet0 => false
  | .dispCtrlOn _ => false
  | .dispOff => false
  | .segmentData _ => false

/-- The brightness code of a display command: RAW, BCD, ASCII, INT, FLOAT, the commands with three phases (R193). -/
def Instr.displayBright : Instr → Option (BitVec 3)
  | .raw b _ _ => some b
  | .bcd b _ _ => some b
  | .ascii b _ => some b
  | .int b _ _ => some b
  | .float b _ _ => some b
  | .init _ _ => none
  | .off _ => none
  | .start => none
  | .sendByte _ => none
  | .stop => none
  | .dataCmd => none
  | .addrSet0 => none
  | .dispCtrlOn _ => none
  | .dispOff => none
  | .segmentData _ => none

namespace Machine

/-- The effect of an action on the line registers (R81). -/
def lineEffect (a : Action) (l : Lines) : Lines :=
  match a with
  | .clk v => { l with clkQ := v }
  | .dio v => { l with dioQ := v }
  | .mode m => { l with dioMode := m }
  | .wait => l
  | .sample => l
  | .diag => l

/-- The line registers after an action list. -/
def linesAfter : List Action → Lines → Lines
  | [], l => l
  | a :: as, l => linesAfter as (lineEffect a l)

/-- The action an event records, if it records one. -/
def actionOfEvent : Event → Option Action
  | .clk v => some (.clk v)
  | .dio v => some (.dio v)
  | .mode m => some (.mode m)
  | .wait => some .wait
  | .sample _ => some .sample
  | .diag _ => some .diag
  | .done _ => none
  | .rej _ => none
  | .reset => none

/-- A SAMPLE that read level 1: an AckFailure (R242). -/
def isAckFailure (e : Event) : Bool := decide (e = .sample true)

/-- The events an action list leaves, oldest first, when its SAMPLEs read `levels` in order. -/
def eventsOf : List Action → List Level → List Event
  | [], _ => []
  | .clk v :: as, ls => .clk v :: eventsOf as ls
  | .dio v :: as, ls => .dio v :: eventsOf as ls
  | .mode m :: as, ls => .mode m :: eventsOf as ls
  | .wait :: as, ls => .wait :: eventsOf as ls
  | .diag :: as, ls => .diag Config.diagText :: eventsOf as ls
  | .sample :: as, l :: ls => .sample l :: eventsOf as ls
  | .sample :: as, [] => .sample false :: eventsOf as []

/-- No refusal recorded: the premise R245 asks of a claim about a run. -/
def State.NoRefusal (s : State) : Prop := s.refused = false

/-- The block is ready for a host command, and nothing comes before it in a step. -/
structure State.Ready (s : State) : Prop where
  notReset : s.rst = false
  noFramerWord : s.framerIn = none
  notBusy : s.busy = false

/-- A host command was accepted and none of its actions is done yet (R191). -/
structure State.Accepted (s : State) (i : Instr) : Prop where
  notReset : s.rst = false
  noFramerWord : s.framerIn = none
  busy : s.busy = true
  cur : s.cur = some i
  host : i.isHost = true
  pc : s.pc = 0
  acc : s.acc = true
  diag : s.diagSent = false

/-- Every register that no line action writes is the same (R23-R25, R29, R30, R81 name those that one does). -/
structure State.SameBeside (s t : State) : Prop where
  params : t.params = s.params
  cfgValid : t.cfgValid = s.cfgValid
  cfgDigitNum : t.cfgDigitNum = s.cfgDigitNum
  busy : t.busy = s.busy
  cur : t.cur = s.cur
  pc : t.pc = s.pc
  diagSent : t.diagSent = s.diagSent
  resultOk : t.resultOk = s.resultOk
  ebuf : t.ebuf = s.ebuf
  dbuf : t.dbuf = s.dbuf
  dcount : t.dcount = s.dcount
  refused : t.refused = s.refused
  rst : t.rst = s.rst
  host : t.host = s.host
  framerIn : t.framerIn = s.framerIn

/-- `t` is `s` after the acceptance of `i` (R191), but for the configuration and the buffers: the command is latched
and nothing is sent. -/
structure State.AcceptedFrom (i : Instr) (s t : State) : Prop where
  params : t.params = s.params
  cur : t.cur = some i
  busy : t.busy = true
  pc : t.pc = 0
  acc : t.acc = true
  diagSent : t.diagSent = false
  lines : t.lines = s.lines
  ackLast : t.ackLast = s.ackLast
  resultOk : t.resultOk = s.resultOk
  refused : t.refused = s.refused
  rst : t.rst = s.rst
  host : t.host = s.host
  framerIn : t.framerIn = s.framerIn
  dioIn : t.dioIn = s.dioIn
  draws : t.draws = s.draws
  trace : t.trace = s.trace
  rcv : t.rcv = s.rcv

/-- The configuration is the same. -/
def State.SameConfig (s t : State) : Prop := t.cfgValid = s.cfgValid ∧ t.cfgDigitNum = s.cfgDigitNum

/-- The rightmost `D` entries of `ebuf` are in `dbuf[0..D-1]`, the other entries of `dbuf` are those of `s`, and
`dcount = D` (R146, R195-R198). -/
def State.WindowLoaded (s t : State) : Prop :=
  t.dcount.toNat = s.digits ∧
    ∀ k : Fin 6, t.dbuf[k] = if k < s.digits then t.ebuf.toList.getD (Config.cap - s.digits + k) 0 else s.dbuf[k]

/-- `xs` right-aligned in the capacity buffer, blanks before it (R140, R143). -/
def RightAligned (xs : List Byte) (buf : Buf) : Prop :=
  ∀ j : Fin 6, buf[j] = if Config.cap - xs.length ≤ (j : Nat) then xs.getD (j - (Config.cap - xs.length)) 0 else 0

/-- The decimal digits of a magnitude, at least one (R163). -/
def digitsNeeded (n : Nat) : Nat := max 1 (Nat.digits 10 n).length

/-- The digits DECIMAL writes: those of the magnitude, zeros up to the digit with the point, at most CAP (R161, R163). -/
def digitsWritten (value dp : Int) : Nat := min Config.cap (max (digitsNeeded value.natAbs) (dp + 1).toNat)

/-- What DECIMAL leaves in the capacity buffer, position by position counted from the units (R160-R164): the digits,
the point on the digit with `dp` digits to its right, the minus sign left of them if there is room, blanks. -/
def DecimalImage (p : Parameters) (value dp : Int) (buf : Buf) : Prop :=
  ∀ w : Fin 6, buf.toList.getD (5 - w) 0 =
    if (w : Nat) < digitsWritten value dp then
      (if dp = ((w : Nat) : Int) then Params.segHex p (value.natAbs / 10 ^ (w : Nat) % 10) ||| Params.segDp
       else Params.segHex p (value.natAbs / 10 ^ (w : Nat) % 10))
    else if (w : Nat) = digitsWritten value dp ∧ value < 0 then p.segMinus
    else Params.segBlank

/-- The events of SENDBYTE `b` whose SAMPLE read `a`, oldest first, written out from R103 and R104. -/
def sendByteEvents (b : Byte) (a : Level) : List Event :=
  [0, 1, 2, 3, 4, 5, 6, 7].flatMap
      (fun i => [Event.clk false, .dio (b.getLsbD i), .wait, .clk true, .wait]) ++
    [.mode .inp, .clk false, .wait, .sample a, .clk true, .wait, .mode .out]

/-- `t` is `s` after SENDBYTE `b` whose ACK slot read `a` (R103-R107). -/
structure State.ByteSent (b : Byte) (a : Level) (s t : State) : Prop where
  clkQ : t.lines.clkQ = true
  dioMode : t.lines.dioMode = .out
  dioQ : t.lines.dioQ = b.getLsbD 7
  ackLast : t.ackLast = !a
  acc : t.acc = (s.acc && !a)
  trace : t.trace = (sendByteEvents b a).reverse ++ s.trace
  dioIn : t.dioIn = s.dioIn.tail
  draws : t.draws = s.draws + 1
  receiver : t.rcv.regs = s.rcv.regs
  rest : State.SameBeside s t

/-- The rising CLK edges of an action list that begins with CLK at `clk` (R112). -/
def risingEdges : List Action → Level → Nat
  | [], _ => 0
  | .clk v :: as, clk => (if !clk && v then 1 else 0) + risingEdges as v
  | .dio _ :: as, clk => risingEdges as clk
  | .mode _ :: as, clk => risingEdges as clk
  | .wait :: as, clk => risingEdges as clk
  | .sample :: as, clk => risingEdges as clk
  | .diag :: as, clk => risingEdges as clk

/-- What an action does to the reference receiver (R61, R64, R103). -/
def receiverEffect (a : Action) (s : State) : Receiver :=
  match a with
  | .clk v => if s.lines.clkQ = false ∧ v = true then s.rcv.risingEdge s.lines.dioQ else s.rcv
  | .dio v =>
    if s.lines.clkQ = true ∧ s.lines.dioMode = .out ∧ s.lines.dioQ ≠ v then
      (if v then s.rcv.stopCondition s.params else s.rcv.startCondition)
    else s.rcv
  | .mode _ => s.rcv
  | .wait => s.rcv
  | .sample => s.rcv.answer s.sampleLevel
  | .diag => s.rcv

/-- The receiver's next `n` answers: the given levels, then the free value (R12; log 4). -/
def State.answers (s : State) (n : Nat) : List Level :=
  (List.range n).map fun k => s.dioIn.getD k (Config.dioLevel (s.draws + k))

/-- The value of a non-negative finite binary64 value. -/
def FinFloat.value (a : FinFloat) : ℚ := a.mant * (2 : ℚ) ^ a.exp

/-- The magnitude of a finite binary64 value, from its exponent field and its fraction (IEEE 754, R170). -/
def floatAbs (f : Float64) : ℚ :=
  if f.extractLsb' 52 11 = 0#11 then ((f.extractLsb' 0 52).toNat : ℚ) * (2 : ℚ) ^ (-1074 : Int)
  else (2 ^ 52 + (f.extractLsb' 0 52).toNat : ℚ) * (2 : ℚ) ^ (((f.extractLsb' 52 11).toNat : Int) - 1075)

/-- The rationals RNE64 takes to infinity: from half a unit above the greatest finite value on. -/
def Overflows (x : ℚ) : Prop := ((2 : ℚ) ^ 54 - 1) * 2 ^ 970 ≤ x

/-- `q` is RNE64 of the non-negative rational `x`, not rounded to infinity (R170): `q`'s exponent is that of `x`'s binade,
or the least; `q` is within half a unit of `x`; and at half a unit the significand is even. -/
structure RoundsTo (x : ℚ) (q : FinFloat) : Prop where
  finite : ¬ Overflows x
  expLow : -1074 ≤ q.exp
  binade : q.exp = -1074 ∨ (2 : ℚ) ^ (52 + q.exp) ≤ x
  below : x < (2 : ℚ) ^ (53 + q.exp)
  near : |x - q.value| ≤ (2 : ℚ) ^ q.exp / 2
  even : |x - q.value| = (2 : ℚ) ^ q.exp / 2 → q.mant % 2 = 0

/-- Micro-operations run one after the other by their meanings. -/
def execMicroOps : List MicroOp → State → Result
  | [], s => .next s
  | m :: ms, s =>
    match exec m.toInstr s with
    | .next t => execMicroOps ms t
    | .fault r => .fault r
    | .refused r => .refused r

/-- The lines between commands: idle (R100), or RESET_LINES until the first frame. The default of RESET_LINES is the idle
state. -/
def State.StartLines (s : State) (l : Lines) : Prop := l = Lines.idle ∨ l = s.params.resetLines

/-- The invariant of the machine: legal configuration (R22), buffer lengths (R33, R204), an idle block holds no command
and leaves the lines idle, or as reset left them (R40, R100), a busy block stands within its action list (R28) with the
lines where the actions so far left them (R192), and past its DIAG only with `acc = 0` at the end of the list (R31). -/
structure State.Inv (s : State) : Prop where
  noFramerWord : s.framerIn = none
  digitsLow : 1 ≤ s.digits
  digitsHigh : s.digits ≤ Config.cap
  dcountCap : s.dcount.toNat ≤ Config.cap
  idle : s.busy = false → s.cur = none ∧ s.pc = 0 ∧ s.diagSent = false ∧ s.StartLines s.lines
  running : s.busy = true → ∃ i, s.cur = some i ∧ i.isHost = true ∧ s.cfgValid = true ∧ s.pc ≤ s.actions.length ∧
    (∃ l, s.StartLines l ∧ s.lines = linesAfter (s.actions.take s.pc) l) ∧
    (i.displayBright ≠ none → s.dcount.toNat ≤ s.digits) ∧
    (s.diagSent = true → s.pc = s.actions.length ∧ s.acc = false)

/-- The events of the running command's actions so far, oldest first: the newest `pc` events below its DIAG. -/
def State.commandEvents (s : State) : List Event :=
  ((s.trace.drop (if s.diagSent then 1 else 0)).take s.pc).reverse

/-- While a command runs, the record shows its action list up to `pc` (R60, R192), and `acc` says that no SAMPLE of it
read level 1 (R30, R201). -/
structure State.RecordInv (s : State) : Prop where
  actions : s.busy = true → s.commandEvents.map actionOfEvent = (s.actions.take s.pc).map some
  acc : s.busy = true → s.acc = !s.commandEvents.any isAckFailure

end Machine

end Sys2Proof
end

