-- ==== Sys2Proof/Certificates/Slice0/Obligations.lean ====
section
/-!
DEFINITION. The statements for the provers. Each docstring names the rules of spec/ the statement rests on.
-/
open Sys2Proof Sys2Proof.Machine

/-! ## Encodings -/

/-- R70-R79: no bit of an encoding is dropped: every instruction, every operand value, for every
legal choice of the command bytes (R9). What makes a choice legal is the model's reading of their fields (log 16). -/
def Obligations.DecodeOfEncode : Prop :=
  ∀ (p : Parameters) (i : Instr), Params.legal p = true → decode p (encode p i) = .ok i

/-- R70-R79: a word that decodes is the word its instruction encodes to, so each word has one meaning, for every
legal choice of the command bytes (log 16). The arguments an opcode does not name are not compared (R72: they are
ignored). -/
def Obligations.EncodeOfDecode : Prop :=
  ∀ p : Parameters, Params.legal p = true →
    (∀ r i, decode p (.host r) = .ok i → ∃ r', encode p i = .host r' ∧ r'.cmdWord = r.cmdWord) ∧
    (∀ f i, decode p (.framer f) = .ok i → encode p i = .framer f)

/-- R70-R79, `opcode_table.json`: words written out bit by bit decode to their instructions. Which of the table's three
spaces a bare byte belongs to is the model's choice (log 22): with bits 7:6 zero it is a host word with arguments of
zeros, and a byte that is no command byte is segment data. -/
def Obligations.TableWordsDecode : Prop :=
  decodeTableWord 8 0b00000000 = some (.init 0 0) ∧
  decodeTableWord 8 0b00111001 = some (.raw 7 [] 0) ∧
  decodeTableWord 8 0b00111110 = some (.off 7) ∧
  decodeTableWord 16 0b0000000000 = some .start ∧
  decodeTableWord 16 0b0111000000 = some (.sendByte 0xC0) ∧
  decodeTableWord 16 0b1000000000 = some .stop ∧
  decodeTableWord 8 0b10001111 = some (.dispCtrlOn 7) ∧
  decodeTableWord 8 0b11111111 = some (.segmentData 0xFF)

/-- R70, R71, R74: a host word is refused for its reserved bits whatever its opcode, then for the reserved opcode; every
other word decodes to a host command. In the block: nothing is sent, the state stays, and `rej` carries 1 or 2
(R243). -/
def Obligations.ReservedHostWords : Prop :=
  ∀ (s : State) (r : Request) (rest : List Request), s.Ready → s.host = r :: rest →
    (r.cmdWord.extractLsb' 6 2 ≠ 0 →
      step s = .next { s with host := rest, trace := .rej 1 :: s.trace, refused := true }) ∧
    (r.cmdWord.extractLsb' 6 2 = 0 → r.cmdWord.extractLsb' 0 3 = 0b111#3 →
      step s = .next { s with host := rest, trace := .rej 2 :: s.trace, refused := true }) ∧
    (r.cmdWord.extractLsb' 6 2 = 0 → r.cmdWord.extractLsb' 0 3 ≠ 0b111#3 →
      ∃ i, decode s.params (.host r) = .ok i ∧ i.isHost = true)

/-- R83: a line the assembler reads becomes a request that decodes to the command it read, and the command word is
`(bright << 3) | op` with the reserved bits zero. The reading of a line's characters is the model's (log 31). -/
def Obligations.AssembledWordDecodes : Prop :=
  ∀ (p : Parameters) (line : List Char) (i : Instr), assembleLine p line = some i →
    ∃ r, assembleRequest p line = some r ∧ decode p (.host r) = .ok i ∧
      ∃ b op : BitVec 3, r.cmdWord = b.setWidth 8 <<< 3 ||| op.setWidth 8

/-! ## What a step is -/

/-- R82, R191 and the model's framer port (log 10): a step runs the decoded instruction; the request or word is taken
from its port. -/
def Obligations.StepRunsDecoded : Prop :=
  (∀ (s : State) (r : Request) (rest : List Request) (i : Instr), s.Ready → s.host = r :: rest →
    decode s.params (.host r) = .ok i → step s = exec i { s with host := rest }) ∧
  (∀ (s : State) (f : FramerWord) (i : Instr), s.rst = false → s.framerIn = some f →
    decode s.params (.framer f) = .ok i → step s = exec i { s with framerIn := none })

/-- R26, R82, R247: an idle block with no command presented stays as it is. -/
def Obligations.IdleStays : Prop := ∀ s : State, s.Ready → s.host = [] → step s = .next s

/-- R26, R82, R247, U24: while the block is busy a presented command is neither taken nor refused: the step is the running
command's, the same whatever is presented; the latched command is kept or completed, and the requests stay. -/
def Obligations.BusyDoesNotTake : Prop :=
  ∀ s : State, s.rst = false → s.framerIn = none → s.busy = true →
    ∃ t, step s = .next t ∧ t.host = s.host ∧ t.refused = s.refused ∧ (t.cur = s.cur ∨ t.cur = none) ∧
      (∀ c, t.trace ≠ .rej c :: s.trace) ∧
      ∀ presented : List Request, step { s with host := presented } = .next { t with host := presented }

/-- R191, R26, U24: the meaning of a host command on a busy block leaves the state as it is: the host waits. This is the
model's reading (log 20), since a step of a busy block never calls that meaning. -/
def Obligations.HostCommandWaitsWhileBusy : Prop :=
  ∀ (i : Instr) (s : State), i.isHost = true → s.busy = true → exec i s = .next s

/-- R75, R240, R288, U7: a step never faults and never has no meaning, but for a word in the model's framer port. -/
def Obligations.StepAlwaysAnswers : Prop := ∀ s : State, s.framerIn = none → ∃ t, step s = .next t

/-! ## The framer -/

/-- R81, R106: SAMPLE writes `ack_last`, then `acc`; no other action writes either flag. -/
def Obligations.OnlySampleWritesFlags : Prop :=
  ∀ (a : Action) (s : State),
    if a = .sample then
      (perform a s).ackLast = !s.sampleLevel ∧ (perform a s).acc = (s.acc && (perform a s).ackLast) ∧
        (perform a s).trace = .sample s.sampleLevel :: s.trace
    else (perform a s).ackLast = s.ackLast ∧ (perform a s).acc = s.acc

/-- R101: START gives DIO(0), WAIT; it writes `dio_q` alone. -/
def Obligations.StartCompletes : Prop :=
  ∀ s : State, ∃ t, exec .start s = .next t ∧ t.lines = { s.lines with dioQ := false } ∧
    t.trace = .wait :: .dio false :: s.trace ∧ t.ackLast = s.ackLast ∧ t.acc = s.acc ∧ t.dioIn = s.dioIn ∧
    t.draws = s.draws ∧ t.rcv.regs = s.rcv.regs ∧ State.SameBeside s t

/-- R102-R107: SENDBYTE completes from every state, for every byte and every answer of the receiver; `rest` of
`ByteSent` is the frame. -/
def Obligations.SendByteCompletes : Prop :=
  ∀ (b : Byte) (s : State), ∃ t, exec (.sendByte b) s = .next t ∧ State.ByteSent b s.receiverLevel s t

/-- R109: STOP gives the seven actions of the rule and ends with CLK and DIO high; it samples nothing. -/
def Obligations.StopCompletes : Prop :=
  ∀ s : State, ∃ t, exec .stop s = .next t ∧ t.lines = { s.lines with clkQ := true, dioQ := true } ∧
    t.trace = [Event.wait, .dio true, .wait, .clk true, .wait, .dio false, .clk false] ++ s.trace ∧
    t.ackLast = s.ackLast ∧ t.acc = s.acc ∧ t.dioIn = s.dioIn ∧ t.draws = s.draws ∧ State.SameBeside s t

/-- R76-R79, R200: each wire byte is its byte on the wire and one ACK slot (log 11). The bytes are the block's parameters
(R9); DefaultParameters states their defaults. -/
def Obligations.WireBytesComplete : Prop :=
  (∀ s : State, ∃ t, exec .dataCmd s = .next t ∧ State.ByteSent s.params.cmdData s.receiverLevel s t) ∧
  (∀ s : State, ∃ t, exec .addrSet0 s = .next t ∧ State.ByteSent 0xC0 s.receiverLevel s t) ∧
  (∀ (b : BitVec 3) (s : State), ∃ t, exec (.dispCtrlOn b) s = .next t ∧
    State.ByteSent (Params.ctrlByte s.params b) s.receiverLevel s t) ∧
  (∀ s : State, ∃ t, exec .dispOff s = .next t ∧ State.ByteSent s.params.ctrlOffByte s.receiverLevel s t) ∧
  (∀ (b : Byte) (s : State), ∃ t, exec (.segmentData b) s = .next t ∧ State.ByteSent b s.receiverLevel s t)

/-- R112: the counts of actions, WAITs, rising CLK edges and SAMPLEs of each micro-operation and of a frame of k
bytes. -/
def Obligations.ActionCounts : Prop :=
  (startActions.length = 2 ∧ waitCount startActions = 1 ∧ risingEdges startActions true = 0 ∧
    sampleCount startActions = 0) ∧
  (∀ b, (sendByteActions b).length = 47 ∧ waitCount (sendByteActions b) = 18 ∧
    risingEdges (sendByteActions b) true = 9 ∧ sampleCount (sendByteActions b) = 1) ∧
  (stopActions.length = 7 ∧ waitCount stopActions = 3 ∧ risingEdges stopActions true = 1 ∧
    sampleCount stopActions = 0) ∧
  ∀ bytes : List Byte, (actionsOf (frameOps bytes)).length = 9 + 47 * bytes.length ∧
    waitCount (actionsOf (frameOps bytes)) = 4 + 18 * bytes.length ∧
    risingEdges (actionsOf (frameOps bytes)) true = 9 * bytes.length + 1 ∧
    sampleCount (actionsOf (frameOps bytes)) = bytes.length

/-- R100, R192: in the list of every host command, START stands in the idle state, SENDBYTE and STOP in the in-frame
state, with DIO at 0 after START and at bit 7 of the last byte after SENDBYTE; the list ends idle. -/
def Obligations.LineStateBetweenMicroOps : Prop :=
  ∀ (p : Parameters) (i : Instr) (data : List Byte), i.isHost = true →
    linesAfter (actionsOf (opsOf p i data)) Lines.idle = Lines.idle ∧
    ∀ (before after : List MicroOp) (m : MicroOp), opsOf p i data = before ++ m :: after →
      (m = .start → linesAfter (actionsOf before) Lines.idle = Lines.idle) ∧
      (m ≠ .start → (linesAfter (actionsOf before) Lines.idle).clkQ = true ∧
        (linesAfter (actionsOf before) Lines.idle).dioMode = .out ∧
        ∃ before' m', before = before' ++ [m'] ∧
          ((m' = .start ∧ (linesAfter (actionsOf before) Lines.idle).dioQ = false) ∨
            ∃ b, m' = .sendByte b ∧ (linesAfter (actionsOf before) Lines.idle).dioQ = b.getLsbD 7))

/-- R113: within a frame a DIO action with CLK high is START's fall, the first action, or STOP's rise, the last but
one. -/
def Obligations.DioActionsWhileClkHigh : Prop :=
  ∀ (bytes : List Byte) (n : Nat) (v : Level), (actionsOf (frameOps bytes))[n]? = some (.dio v) →
    (linesAfter ((actionsOf (frameOps bytes)).take n) Lines.idle).clkQ = true →
      (n = 0 ∧ v = false) ∨ (n = 47 * bytes.length + 7 ∧ v = true)

/-- R81, R104, R282: in the list of every host command, SAMPLE stands where DIO is in input mode, and a DIO action
where it is in output mode. -/
def Obligations.SampleOnlyInInputMode : Prop :=
  ∀ (p : Parameters) (i : Instr) (data : List Byte) (n : Nat), i.isHost = true →
    ((actionsOf (opsOf p i data))[n]? = some .sample →
      (linesAfter ((actionsOf (opsOf p i data)).take n) Lines.idle).dioMode = .inp) ∧
    ∀ v, (actionsOf (opsOf p i data))[n]? = some (.dio v) →
      (linesAfter ((actionsOf (opsOf p i data)).take n) Lines.idle).dioMode = .out

/-! ## The encoder -/

/-- R53: properties P1, P2 and P3 of SEG_HEX, for every legal choice of it; the defaults are one (DefaultParameters). -/
def Obligations.SegHexProperties : Prop :=
  ∀ p : Parameters, Params.legal p = true →
    (∀ v < 16, (Params.segHex p v).getLsbD 7 = false) ∧
    (∀ v < 16, Params.segHex p v ≠ 0 ∧ ∀ u < 16, Params.segHex p u = Params.segHex p v → u = v) ∧
    (∀ v < 16, Params.segHex p v ≠ p.segMinus)

/-- R54: SEG_ASCII by default, row by row; and for every legal choice of it the keys alone are not blank, and upper and
lower case give the same bytes. -/
def Obligations.SegAsciiRows : Prop :=
  (∀ d < 10, Params.segAscii Params.defaults (0x30 + d) = Params.segHex Params.defaults d) ∧
  (∀ d < 6, Params.segAscii Params.defaults (0x41 + d) = Params.segHex Params.defaults (10 + d) ∧
    Params.segAscii Params.defaults (0x61 + d) = Params.segHex Params.defaults (10 + d)) ∧
  Params.segAscii Params.defaults 0x2E = 0x80 ∧
  ∀ p : Parameters,
    (∀ d < 6, Params.segAscii p (0x41 + d) = Params.segAscii p (0x61 + d)) ∧
    ∀ c < 128,
      if (0x30 ≤ c ∧ c ≤ 0x39) ∨ (0x41 ≤ c ∧ c ≤ 0x46) ∨ (0x61 ≤ c ∧ c ≤ 0x66) ∨ c = 0x2E then
        Params.legal p = true → Params.segAscii p c ≠ 0
      else Params.segAscii p c = 0

/-- R160-R164, with R140: DECIMAL's capacity buffer, position by position, for every integer and every point. -/
def Obligations.DecimalLeavesImage : Prop := 
  ∀ (p : Parameters) (value dp : Int), DecimalImage p value dp (encodeDecimal p value dp)

/-- R167: the round trip with six digits and no point: right to left, the decimal digits of the magnitude without
leading zeros, one minus exactly when the value is negative, then blanks. -/
def Obligations.IntegerRoundTrip : Prop :=
  ∀ (p : Parameters) (v dp : Int), -99999 ≤ v → v ≤ 999999 → dp < 0 →
    (window (encodeDecimal p v dp) 6).reverse =
      (if v = 0 then [0] else Nat.digits 10 v.natAbs).map (Params.segHex p) ++
        (if v < 0 then [p.segMinus] else []) ++
        List.replicate (6 - digitsNeeded v.natAbs - (if v < 0 then 1 else 0)) Params.segBlank

/-- R172: FITS as the rule writes it, with `ndigits(n) = 1 + floor(log10 n)`. -/
def Obligations.FitsIsTheRule : Prop :=
  ndigits 0 = 1 ∧ (∀ n, 1 ≤ n → ndigits n = 1 + Nat.log 10 n) ∧
  ∀ (v dp : Int) (d : Nat), fits v dp d = true ↔
    max (ndigits v.natAbs) (if 0 ≤ dp then dp.toNat + 1 else 1) + (if v < 0 then 1 else 0) ≤ d

/-- R170: the default FLOAT_SCALE. It gives 1234 for 12.34 and 2, 28 for 0.29 and 2, Invalid for NaN and the infinities,
and 0 for minus zero at every precision whose power of ten is finite. For every finite float it is the rule's formula:
the product with RNE64(10^p) rounded to nearest even and truncated toward zero, or Invalid exactly where one of the two
roundings overflows. At precision 0 it is the truncated float. -/
def Obligations.FloatScaleDefault : Prop :=
  floatScale 0x4028AE147AE147AE 2 = some 1234 ∧
  floatScale 0x3FD28F5C28F5C28F 2 = some 28 ∧
  (∀ (f : Float64) (p : Int), f.extractLsb' 52 11 = 0x7FF#11 → floatScale f p = none) ∧
  (∀ p : Int, p ≤ 308 → floatScale 0x8000000000000000 p = some 0) ∧
  (∀ (f : Float64) (p v : Int), floatScale f p = some v →
    ∃ P q : FinFloat, RoundsTo ((10 : ℚ) ^ p) P ∧ RoundsTo (floatAbs f * P.value) q ∧
      v = (if f.getLsbD 63 then -⌊q.value⌋ else ⌊q.value⌋)) ∧
  (∀ (f : Float64) (p : Int), f.extractLsb' 52 11 ≠ 0x7FF#11 →
    (floatScale f p = none ↔ Overflows ((10 : ℚ) ^ p) ∨
      ∃ P : FinFloat, RoundsTo ((10 : ℚ) ^ p) P ∧ Overflows (floatAbs f * P.value))) ∧
  ∀ f : Float64, f.extractLsb' 52 11 ≠ 0x7FF#11 →
    floatScale f 0 = some (if f.getLsbD 63 then -⌊floatAbs f⌋ else ⌊floatAbs f⌋)

/-- R147: an encoding command's buffers do not depend on what `ebuf` held before. -/
def Obligations.EncodingIgnoresOldBuffer : Prop :=
  ∀ (i : Instr) (e : Buf) (s t u : State), i.displayBright ≠ none → (∀ b data count, i ≠ .raw b data count) →
    exec i s = .next t → exec i { s with ebuf := e } = .next u → s.busy = false → t.busy = true →
      u.busy = true ∧ u.ebuf = t.ebuf ∧ u.dbuf = t.dbuf ∧ u.dcount = t.dcount

/-! ## The host commands: acceptance -/

/-- R190, R191: INIT is accepted by every idle block for digit counts 1..6, configured or not; its list is empty. -/
def Obligations.InitCompletes : Prop :=
  ∀ (b : BitVec 3) (d : Byte) (s : State), s.busy = false → 1 ≤ d.toNat → d.toNat ≤ 6 →
    ∃ t, exec (.init b d) s = .next t ∧ State.AcceptedFrom (.init b d) s t ∧ t.cfgValid = true ∧ t.digits = d.toNat ∧
      t.ebuf = s.ebuf ∧ t.dbuf = s.dbuf ∧ t.dcount = s.dcount ∧ t.actions = []

/-- R191, R194: RAW loads the first `min(count, cfg_digit_num)` bytes as given and keeps `ebuf`. -/
def Obligations.RawCompletes : Prop :=
  ∀ (b : BitVec 3) (data : List Byte) (count : Nat) (s : State), s.busy = false → s.cfgValid = true →
    s.digits ≤ 6 → min count s.digits ≤ data.length →
    ∃ t, exec (.raw b data count) s = .next t ∧ State.AcceptedFrom (.raw b data count) s t ∧ State.SameConfig s t ∧
      t.ebuf = s.ebuf ∧ t.dcount.toNat = min count s.digits ∧
      (∀ k : Fin 6, t.dbuf[k] = if k < min count s.digits then data.getD k 0 else s.dbuf[k]) ∧
      t.ops = displayOps s.params b (data.take (min count s.digits))

/-- R140, R143, R150, R191, R195: BCD right-aligns the images of its first `min(count, D)` values and loads the
window. -/
def Obligations.BcdCompletes : Prop :=
  ∀ (b : BitVec 3) (vals : List Byte) (count : Nat) (s : State), s.busy = false → s.cfgValid = true →
    s.digits ≤ 6 → min count s.digits ≤ vals.length → (∀ v ∈ vals.take (min count s.digits), v.toNat ≤ 15) →
    ∃ t, exec (.bcd b vals count) s = .next t ∧ State.AcceptedFrom (.bcd b vals count) s t ∧ State.SameConfig s t ∧
      RightAligned ((vals.take (min count s.digits)).map fun v => Params.segHex s.params v.toNat) t.ebuf ∧
      State.WindowLoaded s t ∧ t.ops = displayOps s.params b (window t.ebuf s.digits)

/-- R140, R143, R153, R191, R196: ASCII right-aligns the images of its first `min(len, D)` codes and loads the
window. -/
def Obligations.AsciiCompletes : Prop :=
  ∀ (b : BitVec 3) (text : List Byte) (s : State), s.busy = false → s.cfgValid = true → s.digits ≤ 6 →
    (∀ c ∈ text.take s.digits, c.toNat ≤ 127) →
    ∃ t, exec (.ascii b text) s = .next t ∧ State.AcceptedFrom (.ascii b text) s t ∧ State.SameConfig s t ∧
      RightAligned ((text.take s.digits).map fun c => Params.segAscii s.params c.toNat) t.ebuf ∧
      State.WindowLoaded s t ∧ t.ops = displayOps s.params b (window t.ebuf s.digits)

/-- R160-R166, R191, R197: INT never refuses on a configured idle block; its operands are read on ports of INT_WIDTH bits
(SignedPorts says how); outside that width the reading is the model's choice (log 32). -/
def Obligations.IntCompletes : Prop :=
  ∀ (b : BitVec 3) (value dp : Int) (s : State), s.busy = false → s.cfgValid = true → s.digits ≤ 6 →
    ∃ t, exec (.int b value dp) s = .next t ∧ State.AcceptedFrom (.int b value dp) s t ∧ State.SameConfig s t ∧
      DecimalImage s.params (Params.toWidth s.params value) (Params.toWidth s.params dp) t.ebuf ∧
      State.WindowLoaded s t ∧ t.ops = displayOps s.params b (window t.ebuf s.digits)

/-- R171, R172, R191, R198: FLOAT is accepted when its scaled integer is of the signed width (Int32 by default) and fits,
and shows it as DECIMAL does, with no point for a precision of 0 or less. Two readings are the model's
choice: a precision outside INT_WIDTH bits is read modulo `2^INT_WIDTH` (log 32), and the range of the scaled integer
follows INT_WIDTH, where R171 writes that of Int32, the default width (log 33). -/
def Obligations.FloatCompletes : Prop :=
  ∀ (b : BitVec 3) (f : Float64) (precision p v dp : Int) (s : State), s.busy = false → s.cfgValid = true →
    s.digits ≤ 6 → p = Params.toWidth s.params precision → Params.scaleFloat s.params f p = some v →
    dp = (if 0 < p then p else -1) →
    -2 ^ (s.params.intWidth - 1) ≤ v → v ≤ 2 ^ (s.params.intWidth - 1) - 1 →
    max (digitsNeeded v.natAbs) (if 0 ≤ dp then dp.toNat + 1 else 1) + (if v < 0 then 1 else 0) ≤ s.digits →
    ∃ t, exec (.float b f precision) s = .next t ∧ State.AcceptedFrom (.float b f precision) s t ∧ State.SameConfig s t ∧
      DecimalImage s.params v dp t.ebuf ∧ State.WindowLoaded s t ∧ t.ops = displayOps s.params b (window t.ebuf s.digits)

/-- R191, R200: OFF prepares nothing; its list is one frame of one byte. -/
def Obligations.OffCompletes : Prop :=
  ∀ (b : BitVec 3) (s : State), s.busy = false → s.cfgValid = true →
    ∃ t, exec (.off b) s = .next t ∧ State.AcceptedFrom (.off b) s t ∧ State.SameConfig s t ∧
      t.ebuf = s.ebuf ∧ t.dbuf = s.dbuf ∧ t.dcount = s.dcount ∧ t.ops = frameOps [s.params.ctrlOffByte]

/-- R199: an accepted BCD, ASCII, INT or FLOAT leaves the block as `RAW b, W, cfg_digit_num` does with its window `W`,
but for the latched command and `ebuf`; the action lists are the same. -/
def Obligations.DelegationToRaw : Prop :=
  ∀ (i : Instr) (b : BitVec 3) (s t : State), i.displayBright = some b → (∀ b data count, i ≠ .raw b data count) →
    s.busy = false → s.digits ≤ 6 → exec i s = .next t → t.busy = true →
    ∃ u, exec (.raw b (window t.ebuf s.digits) s.digits) s = .next u ∧ u.actions = t.actions ∧
      u = { t with cur := some (.raw b (window t.ebuf s.digits) s.digits), ebuf := s.ebuf }

/-- R33, R204: after the acceptance of a display command `dcount <= cfg_digit_num <= CAP`, and phase 2 sends exactly
`dcount` bytes. -/
def Obligations.TransmitLength : Prop :=
  ∀ (i : Instr) (s t : State), i.displayBright ≠ none → s.busy = false → s.digits ≤ 6 → exec i s = .next t →
    t.busy = true → t.dcount.toNat ≤ t.digits ∧ t.digits ≤ 6 ∧ t.phase2Data.length = t.dcount.toNat

/-! ## Refusals -/

/-- R21, R243, R244, R271: on an unconfigured block every command but INIT is refused with code 3, whatever its
arguments; nothing else changes. -/
def Obligations.RefusedBeforeInit : Prop :=
  ∀ (i : Instr) (s : State), i.isHost = true → (∀ b d, i ≠ .init b d) → s.busy = false → s.cfgValid = false →
    exec i s = .next { s with trace := .rej 3 :: s.trace, refused := true }

/-- R151, R152, R172, R190, R194, R243, R244: each opcode's own checks, in order, with their codes; a refused command
writes no register and sends nothing. In the clause of FLOAT two readings are the model's choice: a precision outside
INT_WIDTH bits is read modulo `2^INT_WIDTH` (log 32), and the range of the scaled integer follows INT_WIDTH (log 33). -/
def Obligations.RefusalCauses : Prop :=
  (∀ (b : BitVec 3) (d : Byte) (s : State), s.busy = false → (d.toNat < 1 ∨ 6 < d.toNat) →
    exec (.init b d) s = .next { s with trace := .rej 4 :: s.trace, refused := true }) ∧
  (∀ (b : BitVec 3) (data : List Byte) (count : Nat) (s : State), s.busy = false → s.cfgValid = true →
    data.length < min count s.digits →
    exec (.raw b data count) s = .next { s with trace := .rej 5 :: s.trace, refused := true }) ∧
  (∀ (b : BitVec 3) (vals : List Byte) (count : Nat) (s : State), s.busy = false → s.cfgValid = true →
    vals.length < min count s.digits →
    exec (.bcd b vals count) s = .next { s with trace := .rej 5 :: s.trace, refused := true }) ∧
  (∀ (b : BitVec 3) (vals : List Byte) (count : Nat) (s : State), s.busy = false → s.cfgValid = true →
    min count s.digits ≤ vals.length → (∃ v ∈ vals.take (min count s.digits), 15 < v.toNat) →
    exec (.bcd b vals count) s = .next { s with trace := .rej 6 :: s.trace, refused := true }) ∧
  (∀ (b : BitVec 3) (text : List Byte) (s : State), s.busy = false → s.cfgValid = true →
    (∃ c ∈ text.take s.digits, 127 < c.toNat) →
    exec (.ascii b text) s = .next { s with trace := .rej 7 :: s.trace, refused := true }) ∧
  (∀ (b : BitVec 3) (f : Float64) (precision p dp : Int) (s : State), s.busy = false → s.cfgValid = true →
    p = Params.toWidth s.params precision → dp = (if 0 < p then p else -1) →
    (∀ v : Int, Params.scaleFloat s.params f p = some v →
      -2 ^ (s.params.intWidth - 1) ≤ v → v ≤ 2 ^ (s.params.intWidth - 1) - 1 →
      s.digits < max (digitsNeeded v.natAbs) (if 0 ≤ dp then dp.toNat + 1 else 1) + (if v < 0 then 1 else 0)) →
    exec (.float b f precision) s = .next { s with trace := .rej 8 :: s.trace, refused := true })

/-- R245: every refusal sets the mark, and nothing clears it, reset included. -/
def Obligations.RefusedMarkIsSticky : Prop :=
  ∀ s t : State, step s = .next t →
    (s.refused = true → t.refused = true) ∧ (∀ c, t.trace = .rej c :: s.trace → t.refused = true)

/-! ## The sequencer -/

/-- R28, R60, R81: a busy block performs the action at `pc` and moves on by one: its effect on the lines, on the flags and
the receiver's answers (SAMPLE alone, R106) and on the reference receiver (log 12); the rest stays. -/
def Obligations.BusyStepPerformsAction : Prop :=
  ∀ (s : State) (a : Action), s.rst = false → s.framerIn = none → s.busy = true → s.actions[s.pc]? = some a →
    ∃ t, step s = .next t ∧ t.pc = s.pc + 1 ∧ t.lines = lineEffect a s.lines ∧ t.actions = s.actions ∧
      (∃ e, t.trace = e :: s.trace ∧ actionOfEvent e = some a) ∧
      (if a = .sample then
        t.ackLast = (!s.sampleLevel) ∧ t.acc = (s.acc && !s.sampleLevel) ∧ t.dioIn = s.dioIn.tail ∧
          t.draws = s.draws + 1 ∧ t.trace = .sample s.sampleLevel :: s.trace
      else t.ackLast = s.ackLast ∧ t.acc = s.acc ∧ t.dioIn = s.dioIn ∧ t.draws = s.draws) ∧
      t.rcv = receiverEffect a s ∧
      State.SameBeside s { t with pc := s.pc }

/-- R31: the completion: one DIAG step when `acc = 0`, then the done step, which reports `acc` and leaves the block
idle. The bit that keeps the two steps apart is the model's (log 8). After a command with an AckFailure the reference
receiver's registers are a free value (R242; log 13). -/
def Obligations.CompletionSteps : Prop :=
  ∀ s : State, s.rst = false → s.framerIn = none → s.busy = true → s.pc = s.actions.length →
    if s.acc = false ∧ s.diagSent = false then
      step s = .next { s with trace := .diag Config.diagText :: s.trace, diagSent := true }
    else
      step s = .next { s with
                trace := .done s.acc :: s.trace, resultOk := s.acc, busy := false, pc := 0, cur := none, diagSent := false
                rcv := if s.acc then s.rcv
                  else { s.rcv with regs := Config.receiverAny s.rcv.unknowns, unknowns := s.rcv.unknowns + 1 } }

/-- R31: `result_ok` changes only at a completion, which reports the new value, until reset. -/
def Obligations.ResultHeldUntilCompletion : Prop :=
  ∀ s t : State, s.rst = false → step s = .next t → t.resultOk ≠ s.resultOk → t.trace = .done t.resultOk :: s.trace

/-- R21, R22: no command but INIT writes the configuration. -/
def Obligations.OnlyInitWritesConfig : Prop :=
  ∀ s t : State, s.rst = false → step s = .next t → ¬ State.SameConfig s t → ∃ b d, t.cur = some (.init b d) ∧ t.cfgValid = true

/-- R110, R193, R287: the line actions, WAITs and least time of each command's list, for every T_HOLD; the figures of R287
are those of the default 3 microseconds. -/
def Obligations.CommandActionCounts : Prop :=
  (∀ p b d data, actionsOf (opsOf p (.init b d) data) = []) ∧
  (∀ p b data, (actionsOf (opsOf p (.off b) data)).length = 56 ∧ waitCount (actionsOf (opsOf p (.off b) data)) = 22 ∧
    minTimeUs p (actionsOf (opsOf p (.off b) data)) = 22 * p.tHold ∧
    (p.tHold = 3 → minTimeUs p (actionsOf (opsOf p (.off b) data)) = 66)) ∧
  ∀ (p : Parameters) (i : Instr) (data : List Byte), i.displayBright ≠ none →
    (actionsOf (opsOf p i data)).length = 168 + 47 * data.length ∧
    waitCount (actionsOf (opsOf p i data)) = 66 + 18 * data.length ∧
    minTimeUs p (actionsOf (opsOf p i data)) = (66 + 18 * data.length) * p.tHold ∧
    (p.tHold = 3 → minTimeUs p (actionsOf (opsOf p i data)) = 198 + 54 * data.length)

/-- R60, R192: from its acceptance, the steps of a command perform what its micro-operations mean, one after the
other. -/
def Obligations.StepsRefineMicroOps : Prop :=
  ∀ (s : State) (i : Instr), s.Accepted i →
    ∃ t, execMicroOps s.ops s = .next t ∧
      core.run s.actions.length s = .next { t with pc := s.actions.length }

/-- R192, R201, R202, R203: the whole run of an accepted command, whatever the receiver answers: exactly its action
list is performed, its SAMPLEs read the receiver's answers in order (R12), one DIAG follows if and only if some SAMPLE
read 1, then done reports the AND of the ACKs. After a failed one the reference receiver's registers are a free value
(R242; log 13). -/
def Obligations.CommandRunsToCompletion : Prop :=
  ∀ (s : State) (i : Instr), s.Accepted i →
    ∀ levels : List Level, levels = s.answers (sampleCount s.actions) →
    ∃ t : State,
      core.run (s.actions.length + (if levels.any id then 2 else 1)) s = .next t ∧
      t.trace = .done (!levels.any id) :: ((if levels.any id then [.diag Config.diagText] else []) ++
        ((eventsOf s.actions levels).reverse ++ s.trace)) ∧
      t.resultOk = (!levels.any id) ∧ t.busy = false ∧ t.cur = none ∧ t.pc = 0 ∧
      t.lines = linesAfter s.actions s.lines ∧ State.SameConfig s t ∧ t.ebuf = s.ebuf ∧ t.dbuf = s.dbuf ∧
      t.dcount = s.dcount ∧ t.refused = s.refused ∧ t.host = s.host ∧ t.params = s.params ∧
      t.dioIn = s.dioIn.drop levels.length ∧ t.draws = s.draws + levels.length ∧
      (levels.any id = true → ∃ n, t.rcv.regs = Config.receiverAny n)

/-- R288: every accepted command completes after at most 450 line actions, one DIAG and the done step, whatever the
receiver does. -/
def Obligations.BoundedCompletion : Prop :=
  ∀ (s : State) (i : Instr), s.Accepted i →
    s.actions.length ≤ 450 ∧ ∃ n t, n ≤ 450 + 2 ∧ core.run n s = .next t ∧ t.busy = false

/-- R108, R203: the receiver's answers steer nothing but the flags: two runs that differ only in the answers perform
the same actions, step for step. -/
def Obligations.AnswersDoNotSteer : Prop :=
  ∀ (s : State) (i : Instr) (answers : List Level) (n : Nat), s.Accepted i → n ≤ s.actions.length →
    ∃ t u, core.run n s = .next t ∧ core.run n { s with dioIn := answers } = .next u ∧
      u.lines = t.lines ∧ u.trace.map actionOfEvent = t.trace.map actionOfEvent ∧ State.SameBeside t u

/-! ## Reset and invariants -/

/-- R40: the values the spec states for reset; the other registers' reset values are the model's (logs 5 and 6) and
not stated here. -/
def Obligations.ResetValues : Prop :=
  State.reset.cfgValid = false ∧ State.reset.lines = { clkQ := true, dioMode := .out, dioQ := true } ∧
  State.reset.busy = false ∧ State.reset.cur = none ∧ State.reset.pc = 0 ∧ State.reset.dcount = 0 ∧
  State.reset.cmdReady = true

/-- R9, R270, R272: a step under reset gives the reset values from every state, the lines those of RESET_LINES, which are
idle by default; a running command is dropped with no done and no DIAG. -/
def Obligations.ResetStep : Prop :=
  ∀ s : State, s.rst = true → ∃ t, step s = .next t ∧ t.cfgValid = false ∧ t.lines = s.params.resetLines ∧ t.busy = false ∧
    t.cur = none ∧ t.pc = 0 ∧ t.dcount = 0 ∧ t.trace = .reset :: s.trace ∧ t.host = s.host

/-- R22, R28, R33, R40, R100: the machine's invariants hold at reset. -/
def Obligations.InvariantsAtReset : Prop := State.reset.Inv ∧ State.reset.RecordInv

/-- R22, R28, R33, R100, R192, R204: every step keeps the invariant, from every state that has it, for every choice of the
parameters. -/
def Obligations.StepKeepsInvariant : Prop := ∀ s t : State, s.Inv → step s = .next t → t.Inv

/-- R30, R60, R192, R201: every step keeps the record of the running command: the actions done are its list up to
`pc`, and `acc` says whether all of them were acknowledged. -/
def Obligations.StepKeepsRecord : Prop := ∀ s t : State, s.Inv → s.RecordInv → step s = .next t → t.RecordInv

/-! ## The reference receiver (informative) -/

/-- R56, R61, R64: on idle lines, a frame whose bytes are all acknowledged reaches the reference receiver byte for
byte, and has there the effect R64 gives that frame. The receiver is the model's (log 12); that `ptr` is the number of data
bytes after a data frame is the model's too (log 15), since R64 gives no rule that writes it. -/
def Obligations.ReceiverReadsFrame : Prop :=
  ∀ (bytes : List Byte) (s : State) (later : List Level) (regs : RxRegs), s.lines = Lines.idle →
    s.dioIn = List.replicate bytes.length false ++ later → interpretFrame s.params s.rcv.regs bytes = some regs →
    ∃ t, execMicroOps (frameOps bytes) s = .next t ∧ t.rcv.regs = regs ∧ t.lines = Lines.idle

/-- R63, R64, R193, R200: with every byte acknowledged, a display command's data stand in the receiver's registers
from address 0 and its control byte is the one sent; OFF's frame leaves the digits as they were. -/
def Obligations.ReceiverShowsCommand : Prop :=
  (∀ (s : State) (b : BitVec 3) (data : List Byte) (later : List Level), Params.legal s.params = true →
    s.lines = Lines.idle → data.length ≤ 6 →
    s.dioIn = List.replicate (data.length + 3) false ++ later →
    ∃ t, execMicroOps (displayOps s.params b data) s = .next t ∧ t.rcv.regs.ctrl = Params.ctrlByte s.params b ∧
      t.rcv.regs.mode = .writeAutoIncrement ∧
      ∀ k : Fin 6, t.rcv.regs.disp[k] = if k < data.length then data.getD k 0 else s.rcv.regs.disp[k]) ∧
  (∀ (s : State) (later : List Level), Params.legal s.params = true → s.lines = Lines.idle → s.dioIn = false :: later →
    ∃ t, execMicroOps (frameOps [s.params.ctrlOffByte]) s = .next t ∧ t.rcv.regs.disp = s.rcv.regs.disp ∧
      t.rcv.regs.ctrl = s.params.ctrlOffByte)

/-! ## The parameters -/

/-- R9, R53, R55, R76, R77, R78: the defaults this spec fixes for this hardware, and that they satisfy what is asked of a
replacement, as the model reads it (`Params.legal`, log 16). -/
def Obligations.DefaultParameters : Prop :=
  Params.legal Params.defaults = true ∧ Params.defaults.tHold = 3 ∧
  (List.range 16).map (Params.segHex Params.defaults) =
    [0x3F, 0x06, 0x5B, 0x4F, 0x66, 0x6D, 0x7D, 0x07, 0x7F, 0x6F, 0x77, 0x7C, 0x39, 0x5E, 0x79, 0x71] ∧
  Params.defaults.segMinus = 0x40 ∧ Params.segBlank = 0x00 ∧ Params.segDp = 0x80 ∧
  Params.defaults.cmdData = 0x40 ∧ Params.cmdAddr0 = 0xC0 ∧ Params.ctrlBase = 0x80 ∧ Params.defaults.ctrlOn = 0x08 ∧
  (∀ b : BitVec 3, Params.ctrlByte Params.defaults b = 0b10001#5 ++ b) ∧ Params.defaults.ctrlOffByte = 0x80 ∧
  Params.defaults.intWidth = 32 ∧ Params.defaults.resetLines = Lines.idle ∧
  ∀ (f : Float64) (precision : Int), Params.scaleFloat Params.defaults f precision = floatScale f precision

/-- R35, R9: the tables, and every other parameter, are constants of the block: no step writes them, reset included. -/
def Obligations.ParametersAreFixed : Prop := ∀ s t : State, step s = .next t → t.params = s.params

/-- R10, R72, D3: a signed argument within INT_WIDTH bits is read as it is; every argument is read as a value of that
width, congruent to it modulo `2^INT_WIDTH`, which is the model's reading of a port of that width (log 32). -/
def Obligations.SignedPorts : Prop :=
  ∀ (p : Parameters) (v : Int), 1 ≤ p.intWidth →
    (-2 ^ (p.intWidth - 1) ≤ v → v ≤ 2 ^ (p.intWidth - 1) - 1 → Params.toWidth p v = v) ∧
    -2 ^ (p.intWidth - 1) ≤ Params.toWidth p v ∧ Params.toWidth p v ≤ 2 ^ (p.intWidth - 1) - 1 ∧
    (2 : Int) ^ p.intWidth ∣ v - Params.toWidth p v

/-- R170: the rounding of the default FLOAT_SCALE is to the nearest binary64 value, ties to even, and infinite exactly
where half a unit above the greatest finite value is reached; the powers of ten up to 22 are exact. -/
def Obligations.Rne64IsNearestEven : Prop :=
  (∀ num den : Nat, 0 < den →
    (∀ q, rne64 num den = some q → RoundsTo ((num : ℚ) / den) q) ∧
    (rne64 num den = none ↔ Overflows ((num : ℚ) / den))) ∧
  ∀ p : Nat, p ≤ 22 → ∃ P, powerOfTen p = some P ∧ P.value = 10 ^ p

/-- R170, U17: a block's FLOAT_SCALE is the default but at the points where its parameter gives another outcome, the first
such point deciding; every legal choice meets the two demands the rule makes of a replacement. For minus zero the demand
is stated up to a precision of 308, since beyond it the default is Invalid by the rule's own formula (log 17). -/
def Obligations.BlockFloatScale : Prop :=
  ∀ p : Parameters,
    (∀ (f : Float64) (precision : Int), (∀ x ∈ p.floatPoints, ¬(x.fvalue = f ∧ x.precision = precision)) →
      Params.scaleFloat p f precision = floatScale f precision) ∧
    (∀ (before after : List FloatPoint) (x : FloatPoint), p.floatPoints = before ++ x :: after →
      (∀ y ∈ before, ¬(y.fvalue = x.fvalue ∧ y.precision = x.precision)) →
      Params.scaleFloat p x.fvalue x.precision = x.scaled) ∧
    (Params.legal p = true → Params.scaleFloat p 0x4028AE147AE147AE 2 = some 1234 ∧
      ∀ precision : Int, precision ≤ 308 → Params.scaleFloat p 0x8000000000000000 precision = some 0)
end

