-- ==== Sys2Proof/Laws/Decode.lean ====
section
/-!
SUPPORT. Fields of the encoded words, and what the decoder can answer.
-/
namespace Sys2Proof

@[simp] theorem opField_hostWord (b op : BitVec 3) : opField (hostWord b op) = op := by revert b op; decide

@[simp] theorem brightField_hostWord (b op : BitVec 3) : brightField (hostWord b op) = b := by revert b op; decide

@[simp] theorem rsvField_hostWord (b op : BitVec 3) : rsvField (hostWord b op) = 0 := by revert b op; decide

/-- A command word with reserved bits zero is made of its two fields (R70). -/
theorem hostWord_of_fields (w : Byte) (h : rsvField w = 0) : hostWord (brightField w) (opField w) = w := by
  revert w; decide

@[simp] theorem kindField_sendByte (b : Byte) : kindField (encodeMicro (.sendByte b)) = 1 := by revert b; decide

@[simp] theorem byteField_sendByte (b : Byte) : byteField (encodeMicro (.sendByte b)) = b := by revert b; decide

/-- A host word that decodes is a host command (R71). -/
theorem isHost_of_decode {p : Parameters} {r : Request} {i : Instr} (h : decode p (.host r) = .ok i) : i.isHost = true := by
  simp only [decode, decodeHost] at h
  split at h
  · cases h
  iterate 7 (split at h; · cases h; rfl)
  cases h

/-- A host word that does not decode is reserved (R74). -/
theorem reserved_of_decode {p : Parameters} {r : Request} {e : DecodeError} (h : decode p (.host r) = .error e) :
    e = .reservedBits ∨ e = .reservedOpcode := by
  simp only [decode, decodeHost] at h
  split at h
  · cases h; exact .inl rfl
  iterate 7 (split at h; · cases h)
  cases h; exact .inr rfl

end Sys2Proof
end

