-- ==== Sys2Proof/Laws/State.lean ====
section
/-!
SUPPORT. What each update of State leaves in each field: one lemma per field per update, true by rfl.
-/
namespace Sys2Proof.Machine

@[simp] theorem State.emit_params (e : Event) (s : State) : (s.emit e).params = s.params := rfl
@[simp] theorem State.emit_cfgValid (e : Event) (s : State) : (s.emit e).cfgValid = s.cfgValid := rfl
@[simp] theorem State.emit_cfgDigitNum (e : Event) (s : State) : (s.emit e).cfgDigitNum = s.cfgDigitNum := rfl
@[simp] theorem State.emit_lines (e : Event) (s : State) : (s.emit e).lines = s.lines := rfl
@[simp] theorem State.emit_busy (e : Event) (s : State) : (s.emit e).busy = s.busy := rfl
@[simp] theorem State.emit_cur (e : Event) (s : State) : (s.emit e).cur = s.cur := rfl
@[simp] theorem State.emit_pc (e : Event) (s : State) : (s.emit e).pc = s.pc := rfl
@[simp] theorem State.emit_diagSent (e : Event) (s : State) : (s.emit e).diagSent = s.diagSent := rfl
@[simp] theorem State.emit_ackLast (e : Event) (s : State) : (s.emit e).ackLast = s.ackLast := rfl
@[simp] theorem State.emit_acc (e : Event) (s : State) : (s.emit e).acc = s.acc := rfl
@[simp] theorem State.emit_resultOk (e : Event) (s : State) : (s.emit e).resultOk = s.resultOk := rfl
@[simp] theorem State.emit_ebuf (e : Event) (s : State) : (s.emit e).ebuf = s.ebuf := rfl
@[simp] theorem State.emit_dbuf (e : Event) (s : State) : (s.emit e).dbuf = s.dbuf := rfl
@[simp] theorem State.emit_dcount (e : Event) (s : State) : (s.emit e).dcount = s.dcount := rfl
@[simp] theorem State.emit_refused (e : Event) (s : State) : (s.emit e).refused = s.refused := rfl
@[simp] theorem State.emit_rst (e : Event) (s : State) : (s.emit e).rst = s.rst := rfl
@[simp] theorem State.emit_host (e : Event) (s : State) : (s.emit e).host = s.host := rfl
@[simp] theorem State.emit_framerIn (e : Event) (s : State) : (s.emit e).framerIn = s.framerIn := rfl
@[simp] theorem State.emit_dioIn (e : Event) (s : State) : (s.emit e).dioIn = s.dioIn := rfl
@[simp] theorem State.emit_draws (e : Event) (s : State) : (s.emit e).draws = s.draws := rfl
@[simp] theorem State.emit_trace (e : Event) (s : State) : (s.emit e).trace = e :: s.trace := rfl
@[simp] theorem State.emit_rcv (e : Event) (s : State) : (s.emit e).rcv = s.rcv := rfl

@[simp] theorem State.recordAck_params (a : Level) (s : State) : (s.recordAck a).params = s.params := rfl
@[simp] theorem State.recordAck_cfgValid (a : Level) (s : State) : (s.recordAck a).cfgValid = s.cfgValid := rfl
@[simp] theorem State.recordAck_cfgDigitNum (a : Level) (s : State) : (s.recordAck a).cfgDigitNum = s.cfgDigitNum := rfl
@[simp] theorem State.recordAck_lines (a : Level) (s : State) : (s.recordAck a).lines = s.lines := rfl
@[simp] theorem State.recordAck_busy (a : Level) (s : State) : (s.recordAck a).busy = s.busy := rfl
@[simp] theorem State.recordAck_cur (a : Level) (s : State) : (s.recordAck a).cur = s.cur := rfl
@[simp] theorem State.recordAck_pc (a : Level) (s : State) : (s.recordAck a).pc = s.pc := rfl
@[simp] theorem State.recordAck_diagSent (a : Level) (s : State) : (s.recordAck a).diagSent = s.diagSent := rfl
@[simp] theorem State.recordAck_ackLast (a : Level) (s : State) : (s.recordAck a).ackLast = ackOf a := rfl
@[simp] theorem State.recordAck_acc (a : Level) (s : State) : (s.recordAck a).acc = (s.acc && ackOf a) := rfl
@[simp] theorem State.recordAck_resultOk (a : Level) (s : State) : (s.recordAck a).resultOk = s.resultOk := rfl
@[simp] theorem State.recordAck_ebuf (a : Level) (s : State) : (s.recordAck a).ebuf = s.ebuf := rfl
@[simp] theorem State.recordAck_dbuf (a : Level) (s : State) : (s.recordAck a).dbuf = s.dbuf := rfl
@[simp] theorem State.recordAck_dcount (a : Level) (s : State) : (s.recordAck a).dcount = s.dcount := rfl
@[simp] theorem State.recordAck_refused (a : Level) (s : State) : (s.recordAck a).refused = s.refused := rfl
@[simp] theorem State.recordAck_rst (a : Level) (s : State) : (s.recordAck a).rst = s.rst := rfl
@[simp] theorem State.recordAck_host (a : Level) (s : State) : (s.recordAck a).host = s.host := rfl
@[simp] theorem State.recordAck_framerIn (a : Level) (s : State) : (s.recordAck a).framerIn = s.framerIn := rfl
@[simp] theorem State.recordAck_dioIn (a : Level) (s : State) : (s.recordAck a).dioIn = s.dioIn := rfl
@[simp] theorem State.recordAck_draws (a : Level) (s : State) : (s.recordAck a).draws = s.draws := rfl
@[simp] theorem State.recordAck_trace (a : Level) (s : State) : (s.recordAck a).trace = s.trace := rfl
@[simp] theorem State.recordAck_rcv (a : Level) (s : State) : (s.recordAck a).rcv = s.rcv := rfl

@[simp] theorem State.takeLevel_params (s : State) : (s.takeLevel).params = s.params := rfl
@[simp] theorem State.takeLevel_cfgValid (s : State) : (s.takeLevel).cfgValid = s.cfgValid := rfl
@[simp] theorem State.takeLevel_cfgDigitNum (s : State) : (s.takeLevel).cfgDigitNum = s.cfgDigitNum := rfl
@[simp] theorem State.takeLevel_lines (s : State) : (s.takeLevel).lines = s.lines := rfl
@[simp] theorem State.takeLevel_busy (s : State) : (s.takeLevel).busy = s.busy := rfl
@[simp] theorem State.takeLevel_cur (s : State) : (s.takeLevel).cur = s.cur := rfl
@[simp] theorem State.takeLevel_pc (s : State) : (s.takeLevel).pc = s.pc := rfl
@[simp] theorem State.takeLevel_diagSent (s : State) : (s.takeLevel).diagSent = s.diagSent := rfl
@[simp] theorem State.takeLevel_ackLast (s : State) : (s.takeLevel).ackLast = s.ackLast := rfl
@[simp] theorem State.takeLevel_acc (s : State) : (s.takeLevel).acc = s.acc := rfl
@[simp] theorem State.takeLevel_resultOk (s : State) : (s.takeLevel).resultOk = s.resultOk := rfl
@[simp] theorem State.takeLevel_ebuf (s : State) : (s.takeLevel).ebuf = s.ebuf := rfl
@[simp] theorem State.takeLevel_dbuf (s : State) : (s.takeLevel).dbuf = s.dbuf := rfl
@[simp] theorem State.takeLevel_dcount (s : State) : (s.takeLevel).dcount = s.dcount := rfl
@[simp] theorem State.takeLevel_refused (s : State) : (s.takeLevel).refused = s.refused := rfl
@[simp] theorem State.takeLevel_rst (s : State) : (s.takeLevel).rst = s.rst := rfl
@[simp] theorem State.takeLevel_host (s : State) : (s.takeLevel).host = s.host := rfl
@[simp] theorem State.takeLevel_framerIn (s : State) : (s.takeLevel).framerIn = s.framerIn := rfl
@[simp] theorem State.takeLevel_dioIn (s : State) : (s.takeLevel).dioIn = s.dioIn.tail := rfl
@[simp] theorem State.takeLevel_draws (s : State) : (s.takeLevel).draws = s.draws + 1 := rfl
@[simp] theorem State.takeLevel_trace (s : State) : (s.takeLevel).trace = s.trace := rfl
@[simp] theorem State.takeLevel_rcv (s : State) : (s.takeLevel).rcv = s.rcv := rfl

@[simp] theorem State.refuse_params (r : RejReason) (s : State) : (s.refuse r).params = s.params := rfl
@[simp] theorem State.refuse_cfgValid (r : RejReason) (s : State) : (s.refuse r).cfgValid = s.cfgValid := rfl
@[simp] theorem State.refuse_cfgDigitNum (r : RejReason) (s : State) : (s.refuse r).cfgDigitNum = s.cfgDigitNum := rfl
@[simp] theorem State.refuse_lines (r : RejReason) (s : State) : (s.refuse r).lines = s.lines := rfl
@[simp] theorem State.refuse_busy (r : RejReason) (s : State) : (s.refuse r).busy = s.busy := rfl
@[simp] theorem State.refuse_cur (r : RejReason) (s : State) : (s.refuse r).cur = s.cur := rfl
@[simp] theorem State.refuse_pc (r : RejReason) (s : State) : (s.refuse r).pc = s.pc := rfl
@[simp] theorem State.refuse_diagSent (r : RejReason) (s : State) : (s.refuse r).diagSent = s.diagSent := rfl
@[simp] theorem State.refuse_ackLast (r : RejReason) (s : State) : (s.refuse r).ackLast = s.ackLast := rfl
@[simp] theorem State.refuse_acc (r : RejReason) (s : State) : (s.refuse r).acc = s.acc := rfl
@[simp] theorem State.refuse_resultOk (r : RejReason) (s : State) : (s.refuse r).resultOk = s.resultOk := rfl
@[simp] theorem State.refuse_ebuf (r : RejReason) (s : State) : (s.refuse r).ebuf = s.ebuf := rfl
@[simp] theorem State.refuse_dbuf (r : RejReason) (s : State) : (s.refuse r).dbuf = s.dbuf := rfl
@[simp] theorem State.refuse_dcount (r : RejReason) (s : State) : (s.refuse r).dcount = s.dcount := rfl
@[simp] theorem State.refuse_refused (r : RejReason) (s : State) : (s.refuse r).refused = true := rfl
@[simp] theorem State.refuse_rst (r : RejReason) (s : State) : (s.refuse r).rst = s.rst := rfl
@[simp] theorem State.refuse_host (r : RejReason) (s : State) : (s.refuse r).host = s.host := rfl
@[simp] theorem State.refuse_framerIn (r : RejReason) (s : State) : (s.refuse r).framerIn = s.framerIn := rfl
@[simp] theorem State.refuse_dioIn (r : RejReason) (s : State) : (s.refuse r).dioIn = s.dioIn := rfl
@[simp] theorem State.refuse_draws (r : RejReason) (s : State) : (s.refuse r).draws = s.draws := rfl
@[simp] theorem State.refuse_trace (r : RejReason) (s : State) : (s.refuse r).trace = .rej (Params.rejCode r) :: s.trace := rfl
@[simp] theorem State.refuse_rcv (r : RejReason) (s : State) : (s.refuse r).rcv = s.rcv := rfl

@[simp] theorem State.latch_params (i : Instr) (s : State) : (s.latch i).params = s.params := rfl
@[simp] theorem State.latch_cfgValid (i : Instr) (s : State) : (s.latch i).cfgValid = s.cfgValid := rfl
@[simp] theorem State.latch_cfgDigitNum (i : Instr) (s : State) : (s.latch i).cfgDigitNum = s.cfgDigitNum := rfl
@[simp] theorem State.latch_lines (i : Instr) (s : State) : (s.latch i).lines = s.lines := rfl
@[simp] theorem State.latch_busy (i : Instr) (s : State) : (s.latch i).busy = true := rfl
@[simp] theorem State.latch_cur (i : Instr) (s : State) : (s.latch i).cur = some i := rfl
@[simp] theorem State.latch_pc (i : Instr) (s : State) : (s.latch i).pc = 0 := rfl
@[simp] theorem State.latch_diagSent (i : Instr) (s : State) : (s.latch i).diagSent = false := rfl
@[simp] theorem State.latch_ackLast (i : Instr) (s : State) : (s.latch i).ackLast = s.ackLast := rfl
@[simp] theorem State.latch_acc (i : Instr) (s : State) : (s.latch i).acc = true := rfl
@[simp] theorem State.latch_resultOk (i : Instr) (s : State) : (s.latch i).resultOk = s.resultOk := rfl
@[simp] theorem State.latch_ebuf (i : Instr) (s : State) : (s.latch i).ebuf = s.ebuf := rfl
@[simp] theorem State.latch_dbuf (i : Instr) (s : State) : (s.latch i).dbuf = s.dbuf := rfl
@[simp] theorem State.latch_dcount (i : Instr) (s : State) : (s.latch i).dcount = s.dcount := rfl
@[simp] theorem State.latch_refused (i : Instr) (s : State) : (s.latch i).refused = s.refused := rfl
@[simp] theorem State.latch_rst (i : Instr) (s : State) : (s.latch i).rst = s.rst := rfl
@[simp] theorem State.latch_host (i : Instr) (s : State) : (s.latch i).host = s.host := rfl
@[simp] theorem State.latch_framerIn (i : Instr) (s : State) : (s.latch i).framerIn = s.framerIn := rfl
@[simp] theorem State.latch_dioIn (i : Instr) (s : State) : (s.latch i).dioIn = s.dioIn := rfl
@[simp] theorem State.latch_draws (i : Instr) (s : State) : (s.latch i).draws = s.draws := rfl
@[simp] theorem State.latch_trace (i : Instr) (s : State) : (s.latch i).trace = s.trace := rfl
@[simp] theorem State.latch_rcv (i : Instr) (s : State) : (s.latch i).rcv = s.rcv := rfl

@[simp] theorem State.finish_params (s : State) : (s.finish).params = s.params := rfl
@[simp] theorem State.finish_cfgValid (s : State) : (s.finish).cfgValid = s.cfgValid := rfl
@[simp] theorem State.finish_cfgDigitNum (s : State) : (s.finish).cfgDigitNum = s.cfgDigitNum := rfl
@[simp] theorem State.finish_lines (s : State) : (s.finish).lines = s.lines := rfl
@[simp] theorem State.finish_busy (s : State) : (s.finish).busy = false := rfl
@[simp] theorem State.finish_cur (s : State) : (s.finish).cur = none := rfl
@[simp] theorem State.finish_pc (s : State) : (s.finish).pc = 0 := rfl
@[simp] theorem State.finish_diagSent (s : State) : (s.finish).diagSent = false := rfl
@[simp] theorem State.finish_ackLast (s : State) : (s.finish).ackLast = s.ackLast := rfl
@[simp] theorem State.finish_acc (s : State) : (s.finish).acc = s.acc := rfl
@[simp] theorem State.finish_resultOk (s : State) : (s.finish).resultOk = s.acc := rfl
@[simp] theorem State.finish_ebuf (s : State) : (s.finish).ebuf = s.ebuf := rfl
@[simp] theorem State.finish_dbuf (s : State) : (s.finish).dbuf = s.dbuf := rfl
@[simp] theorem State.finish_dcount (s : State) : (s.finish).dcount = s.dcount := rfl
@[simp] theorem State.finish_refused (s : State) : (s.finish).refused = s.refused := rfl
@[simp] theorem State.finish_rst (s : State) : (s.finish).rst = s.rst := rfl
@[simp] theorem State.finish_host (s : State) : (s.finish).host = s.host := rfl
@[simp] theorem State.finish_framerIn (s : State) : (s.finish).framerIn = s.framerIn := rfl
@[simp] theorem State.finish_dioIn (s : State) : (s.finish).dioIn = s.dioIn := rfl
@[simp] theorem State.finish_draws (s : State) : (s.finish).draws = s.draws := rfl
@[simp] theorem State.finish_trace (s : State) : (s.finish).trace = .done s.acc :: s.trace := rfl
@[simp] theorem State.finish_rcv (s : State) : (s.finish).rcv = s.rcv.afterCommand s.acc := rfl

@[simp] theorem State.loadDbuf_params (xs : List Byte) (s : State) : (s.loadDbuf xs).params = s.params := rfl
@[simp] theorem State.loadDbuf_cfgValid (xs : List Byte) (s : State) : (s.loadDbuf xs).cfgValid = s.cfgValid := rfl
@[simp] theorem State.loadDbuf_cfgDigitNum (xs : List Byte) (s : State) : (s.loadDbuf xs).cfgDigitNum = s.cfgDigitNum := rfl
@[simp] theorem State.loadDbuf_lines (xs : List Byte) (s : State) : (s.loadDbuf xs).lines = s.lines := rfl
@[simp] theorem State.loadDbuf_busy (xs : List Byte) (s : State) : (s.loadDbuf xs).busy = s.busy := rfl
@[simp] theorem State.loadDbuf_cur (xs : List Byte) (s : State) : (s.loadDbuf xs).cur = s.cur := rfl
@[simp] theorem State.loadDbuf_pc (xs : List Byte) (s : State) : (s.loadDbuf xs).pc = s.pc := rfl
@[simp] theorem State.loadDbuf_diagSent (xs : List Byte) (s : State) : (s.loadDbuf xs).diagSent = s.diagSent := rfl
@[simp] theorem State.loadDbuf_ackLast (xs : List Byte) (s : State) : (s.loadDbuf xs).ackLast = s.ackLast := rfl
@[simp] theorem State.loadDbuf_acc (xs : List Byte) (s : State) : (s.loadDbuf xs).acc = s.acc := rfl
@[simp] theorem State.loadDbuf_resultOk (xs : List Byte) (s : State) : (s.loadDbuf xs).resultOk = s.resultOk := rfl
@[simp] theorem State.loadDbuf_ebuf (xs : List Byte) (s : State) : (s.loadDbuf xs).ebuf = s.ebuf := rfl
@[simp] theorem State.loadDbuf_dbuf (xs : List Byte) (s : State) : (s.loadDbuf xs).dbuf = writeFrom s.dbuf 0 xs := rfl
@[simp] theorem State.loadDbuf_dcount (xs : List Byte) (s : State) : (s.loadDbuf xs).dcount = BitVec.ofNat 3 xs.length := rfl
@[simp] theorem State.loadDbuf_refused (xs : List Byte) (s : State) : (s.loadDbuf xs).refused = s.refused := rfl
@[simp] theorem State.loadDbuf_rst (xs : List Byte) (s : State) : (s.loadDbuf xs).rst = s.rst := rfl
@[simp] theorem State.loadDbuf_host (xs : List Byte) (s : State) : (s.loadDbuf xs).host = s.host := rfl
@[simp] theorem State.loadDbuf_framerIn (xs : List Byte) (s : State) : (s.loadDbuf xs).framerIn = s.framerIn := rfl
@[simp] theorem State.loadDbuf_dioIn (xs : List Byte) (s : State) : (s.loadDbuf xs).dioIn = s.dioIn := rfl
@[simp] theorem State.loadDbuf_draws (xs : List Byte) (s : State) : (s.loadDbuf xs).draws = s.draws := rfl
@[simp] theorem State.loadDbuf_trace (xs : List Byte) (s : State) : (s.loadDbuf xs).trace = s.trace := rfl
@[simp] theorem State.loadDbuf_rcv (xs : List Byte) (s : State) : (s.loadDbuf xs).rcv = s.rcv := rfl

@[simp] theorem State.loadWindow_params (e : Buf) (s : State) : (s.loadWindow e).params = s.params := rfl
@[simp] theorem State.loadWindow_cfgValid (e : Buf) (s : State) : (s.loadWindow e).cfgValid = s.cfgValid := rfl
@[simp] theorem State.loadWindow_cfgDigitNum (e : Buf) (s : State) : (s.loadWindow e).cfgDigitNum = s.cfgDigitNum := rfl
@[simp] theorem State.loadWindow_lines (e : Buf) (s : State) : (s.loadWindow e).lines = s.lines := rfl
@[simp] theorem State.loadWindow_busy (e : Buf) (s : State) : (s.loadWindow e).busy = s.busy := rfl
@[simp] theorem State.loadWindow_cur (e : Buf) (s : State) : (s.loadWindow e).cur = s.cur := rfl
@[simp] theorem State.loadWindow_pc (e : Buf) (s : State) : (s.loadWindow e).pc = s.pc := rfl
@[simp] theorem State.loadWindow_diagSent (e : Buf) (s : State) : (s.loadWindow e).diagSent = s.diagSent := rfl
@[simp] theorem State.loadWindow_ackLast (e : Buf) (s : State) : (s.loadWindow e).ackLast = s.ackLast := rfl
@[simp] theorem State.loadWindow_acc (e : Buf) (s : State) : (s.loadWindow e).acc = s.acc := rfl
@[simp] theorem State.loadWindow_resultOk (e : Buf) (s : State) : (s.loadWindow e).resultOk = s.resultOk := rfl
@[simp] theorem State.loadWindow_ebuf (e : Buf) (s : State) : (s.loadWindow e).ebuf = e := rfl
@[simp] theorem State.loadWindow_dbuf (e : Buf) (s : State) : (s.loadWindow e).dbuf = writeFrom s.dbuf 0 (window e s.digits) := rfl
@[simp] theorem State.loadWindow_dcount (e : Buf) (s : State) : (s.loadWindow e).dcount = BitVec.ofNat 3 (window e s.digits).length := rfl
@[simp] theorem State.loadWindow_refused (e : Buf) (s : State) : (s.loadWindow e).refused = s.refused := rfl
@[simp] theorem State.loadWindow_rst (e : Buf) (s : State) : (s.loadWindow e).rst = s.rst := rfl
@[simp] theorem State.loadWindow_host (e : Buf) (s : State) : (s.loadWindow e).host = s.host := rfl
@[simp] theorem State.loadWindow_framerIn (e : Buf) (s : State) : (s.loadWindow e).framerIn = s.framerIn := rfl
@[simp] theorem State.loadWindow_dioIn (e : Buf) (s : State) : (s.loadWindow e).dioIn = s.dioIn := rfl
@[simp] theorem State.loadWindow_draws (e : Buf) (s : State) : (s.loadWindow e).draws = s.draws := rfl
@[simp] theorem State.loadWindow_trace (e : Buf) (s : State) : (s.loadWindow e).trace = s.trace := rfl
@[simp] theorem State.loadWindow_rcv (e : Buf) (s : State) : (s.loadWindow e).rcv = s.rcv := rfl

end Sys2Proof.Machine
end

