-- ==== Sys2Proof/Laws/Ops.lean ====
section
/-!
SUPPORT. One lemma for each shared operation that says what it can do: line actions, action lists, acceptance,
completion.
-/
namespace Sys2Proof.Machine

@[simp] theorem perform_params (a : Action) (s : State) : (perform a s).params = s.params := by cases a <;> rfl
@[simp] theorem perform_cfgValid (a : Action) (s : State) : (perform a s).cfgValid = s.cfgValid := by cases a <;> rfl
@[simp] theorem perform_cfgDigitNum (a : Action) (s : State) : (perform a s).cfgDigitNum = s.cfgDigitNum := by cases a <;> rfl
@[simp] theorem perform_busy (a : Action) (s : State) : (perform a s).busy = s.busy := by cases a <;> rfl
@[simp] theorem perform_cur (a : Action) (s : State) : (perform a s).cur = s.cur := by cases a <;> rfl
@[simp] theorem perform_pc (a : Action) (s : State) : (perform a s).pc = s.pc := by cases a <;> rfl
@[simp] theorem perform_diagSent (a : Action) (s : State) : (perform a s).diagSent = s.diagSent := by cases a <;> rfl
@[simp] theorem perform_resultOk (a : Action) (s : State) : (perform a s).resultOk = s.resultOk := by cases a <;> rfl
@[simp] theorem perform_ebuf (a : Action) (s : State) : (perform a s).ebuf = s.ebuf := by cases a <;> rfl
@[simp] theorem perform_dbuf (a : Action) (s : State) : (perform a s).dbuf = s.dbuf := by cases a <;> rfl
@[simp] theorem perform_dcount (a : Action) (s : State) : (perform a s).dcount = s.dcount := by cases a <;> rfl
@[simp] theorem perform_refused (a : Action) (s : State) : (perform a s).refused = s.refused := by cases a <;> rfl
@[simp] theorem perform_rst (a : Action) (s : State) : (perform a s).rst = s.rst := by cases a <;> rfl
@[simp] theorem perform_host (a : Action) (s : State) : (perform a s).host = s.host := by cases a <;> rfl
@[simp] theorem perform_framerIn (a : Action) (s : State) : (perform a s).framerIn = s.framerIn := by cases a <;> rfl

@[simp] theorem perform_lines (a : Action) (s : State) : (perform a s).lines = lineEffect a s.lines := by
  cases a <;> rfl

/-- What a line action does to the reference receiver. -/
theorem perform_rcv (a : Action) (s : State) : (perform a s).rcv = receiverEffect a s := by
  cases a with
  | clk v => simp [perform, receiverEffect, State.emit, State.setClk]
  | dio v =>
    simp only [perform, receiverEffect, State.emit, State.setDio]
    cases hc : s.lines.clkQ <;> cases hq : s.lines.dioQ <;> cases v <;> by_cases hm : s.lines.dioMode = .out <;>
      simp [hm]
  | mode m => rfl
  | wait => rfl
  | sample => rfl
  | diag => rfl

/-- A line action leaves one event, which records it. -/
theorem perform_trace (a : Action) (s : State) :
    ∃ e, (perform a s).trace = e :: s.trace ∧ actionOfEvent e = some a := by
  cases a <;> exact ⟨_, rfl, rfl⟩

/-- Only SAMPLE writes the flags and takes a level (R106). -/
theorem perform_flags (a : Action) (s : State) (h : a ≠ .sample) :
    (perform a s).ackLast = s.ackLast ∧ (perform a s).acc = s.acc ∧ (perform a s).dioIn = s.dioIn ∧
      (perform a s).draws = s.draws := by
  cases a <;> first | exact ⟨rfl, rfl, rfl, rfl⟩ | exact absurd rfl h

/-- What SAMPLE does (R81, R106). -/
theorem perform_sample (s : State) :
    (perform .sample s).ackLast = !s.sampleLevel ∧ (perform .sample s).acc = (s.acc && !s.sampleLevel) ∧
      (perform .sample s).trace = .sample s.sampleLevel :: s.trace :=
  ⟨rfl, rfl, rfl⟩

@[simp] theorem runActions_params (as : List Action) (s : State) : (runActions as s).params = s.params := by
  induction as generalizing s with
  | nil => rfl
  | cons a as ih => simp [runActions, ih]

@[simp] theorem runActions_cfgValid (as : List Action) (s : State) : (runActions as s).cfgValid = s.cfgValid := by
  induction as generalizing s with
  | nil => rfl
  | cons a as ih => simp [runActions, ih]

@[simp] theorem runActions_cfgDigitNum (as : List Action) (s : State) : (runActions as s).cfgDigitNum = s.cfgDigitNum := by
  induction as generalizing s with
  | nil => rfl
  | cons a as ih => simp [runActions, ih]

@[simp] theorem runActions_busy (as : List Action) (s : State) : (runActions as s).busy = s.busy := by
  induction as generalizing s with
  | nil => rfl
  | cons a as ih => simp [runActions, ih]

@[simp] theorem runActions_cur (as : List Action) (s : State) : (runActions as s).cur = s.cur := by
  induction as generalizing s with
  | nil => rfl
  | cons a as ih => simp [runActions, ih]

@[simp] theorem runActions_pc (as : List Action) (s : State) : (runActions as s).pc = s.pc := by
  induction as generalizing s with
  | nil => rfl
  | cons a as ih => simp [runActions, ih]

@[simp] theorem runActions_diagSent (as : List Action) (s : State) : (runActions as s).diagSent = s.diagSent := by
  induction as generalizing s with
  | nil => rfl
  | cons a as ih => simp [runActions, ih]

@[simp] theorem runActions_resultOk (as : List Action) (s : State) : (runActions as s).resultOk = s.resultOk := by
  induction as generalizing s with
  | nil => rfl
  | cons a as ih => simp [runActions, ih]

@[simp] theorem runActions_ebuf (as : List Action) (s : State) : (runActions as s).ebuf = s.ebuf := by
  induction as generalizing s with
  | nil => rfl
  | cons a as ih => simp [runActions, ih]

@[simp] theorem runActions_dbuf (as : List Action) (s : State) : (runActions as s).dbuf = s.dbuf := by
  induction as generalizing s with
  | nil => rfl
  | cons a as ih => simp [runActions, ih]

@[simp] theorem runActions_dcount (as : List Action) (s : State) : (runActions as s).dcount = s.dcount := by
  induction as generalizing s with
  | nil => rfl
  | cons a as ih => simp [runActions, ih]

@[simp] theorem runActions_refused (as : List Action) (s : State) : (runActions as s).refused = s.refused := by
  induction as generalizing s with
  | nil => rfl
  | cons a as ih => simp [runActions, ih]

@[simp] theorem runActions_rst (as : List Action) (s : State) : (runActions as s).rst = s.rst := by
  induction as generalizing s with
  | nil => rfl
  | cons a as ih => simp [runActions, ih]

@[simp] theorem runActions_host (as : List Action) (s : State) : (runActions as s).host = s.host := by
  induction as generalizing s with
  | nil => rfl
  | cons a as ih => simp [runActions, ih]

@[simp] theorem runActions_framerIn (as : List Action) (s : State) : (runActions as s).framerIn = s.framerIn := by
  induction as generalizing s with
  | nil => rfl
  | cons a as ih => simp [runActions, ih]

@[simp] theorem runActions_lines (as : List Action) (s : State) :
    (runActions as s).lines = linesAfter as s.lines := by
  induction as generalizing s with
  | nil => rfl
  | cons a as ih => simp [runActions, linesAfter, ih]

theorem runActions_append (as bs : List Action) (s : State) :
    runActions (as ++ bs) s = runActions bs (runActions as s) := by
  induction as generalizing s with
  | nil => rfl
  | cons a as ih => simp [runActions, ih]

theorem linesAfter_append (as bs : List Action) (l : Lines) :
    linesAfter (as ++ bs) l = linesAfter bs (linesAfter as l) := by
  induction as generalizing l with
  | nil => rfl
  | cons a as ih => simp [linesAfter, ih]

/-- Every outcome of an acceptance step: the command waits, is refused, or is latched (R26, R191, R243). -/
theorem accept_cases (i : Instr) (prep : State → Except RejReason State) (s : State) :
    (s.busy = true ∧ accept i prep s = .next s) ∨
    (s.busy = false ∧ ∃ r, prep s = .error r ∧ accept i prep s = .next (s.refuse r)) ∨
    (s.busy = false ∧ ∃ t, prep s = .ok t ∧ accept i prep s = .next (t.latch i)) := by
  cases hb : s.busy with
  | true => exact .inl ⟨rfl, by simp [accept, hb]⟩
  | false =>
    right
    cases hp : prep s with
    | error r => exact .inl ⟨rfl, r, rfl, by simp [accept, hb, hp]⟩
    | ok t => exact .inr ⟨rfl, t, rfl, by simp [accept, hb, hp]⟩

/-- Both outcomes of the completion (R31). -/
theorem complete_cases (s : State) :
    (s.acc = false ∧ s.diagSent = false ∧
      complete s = { s with trace := .diag Config.diagText :: s.trace, diagSent := true }) ∨
    ((s.acc = true ∨ s.diagSent = true) ∧ complete s = s.finish) := by
  cases ha : s.acc <;> cases hd : s.diagSent <;> simp [complete, perform, State.emit, ha, hd]

/-- A preparation behind the configuration check passes only with a configuration. -/
theorem requireConfig_ok {k : State → Except RejReason State} {s t : State} (h : requireConfig k s = .ok t) :
    s.cfgValid = true ∧ k s = .ok t := by
  unfold requireConfig at h
  split at h
  · exact ⟨‹_›, h⟩
  · cases h

/-- Every outcome of a step of a busy block (R28, R31). -/
theorem busyStep_cases (s : State) :
    (∃ a, s.actions[s.pc]? = some a ∧ busyStep s = s.advance a) ∨
    (s.actions.length ≤ s.pc ∧ busyStep s = complete s) := by
  unfold busyStep
  cases h : s.actions[s.pc]? with
  | some a => exact .inl ⟨a, rfl, rfl⟩
  | none => exact .inr ⟨by simpa using h, rfl⟩

end Sys2Proof.Machine
end

