-- ==== Sys2Proof/Laws/Encoder.lean ====
section
/-!
SUPPORT. Reading the six-byte buffers after the writes of the encoder and of acceptance.
-/
namespace Sys2Proof.Machine

/-- A buffer read after `writeFrom` (R33, R143). -/
theorem writeFrom_get (xs : List Byte) (buf : Buf) (k j : Nat) (hj : j < 6) :
    (writeFrom buf k xs)[j] = if k ≤ j ∧ j < k + xs.length then xs.getD (j - k) 0 else buf[j] := by
  induction xs generalizing buf k with
  | nil => simp [writeFrom]
  | cons x xs ih =>
    rw [writeFrom, ih, Vector.getElem_setIfInBounds]
    by_cases h1 : k + 1 ≤ j ∧ j < k + 1 + xs.length
    · rw [if_pos h1, if_pos (by simp; omega)]
      have : j - k = (j - (k + 1)) + 1 := by omega
      rw [this, List.getD_cons_succ]
    · rw [if_neg h1]
      by_cases h2 : k = j
      · subst h2; simp
      · rw [if_neg h2, if_neg (by simp; omega)]

theorem getD_toList (buf : Buf) (j : Nat) (hj : j < 6) : buf.toList.getD j 0 = buf[j] := by
  rw [List.getD_eq_getElem _ _ (by simpa using hj)]; simp

/-- One write, read position by position counted from the units (R161). -/
theorem set_getD (buf : Buf) (w k : Nat) (hw : w < 6) (hk : k < 6) (x : Byte) :
    (buf.setIfInBounds (Config.cap - 1 - w) x).toList.getD (5 - k) 0 =
      if k = w then x else buf.toList.getD (5 - k) 0 := by
  rw [getD_toList _ _ (by omega), getD_toList _ _ (by omega), Vector.getElem_setIfInBounds]
  simp only [Config.cap]
  by_cases h : k = w
  · subst h; simp
  · rw [if_neg (by omega), if_neg h]

theorem window_length (e : Buf) (d : Nat) (hd : d ≤ 6) : (window e d).length = d := by
  simp only [window, Config.cap, List.length_drop, Vector.length_toList]; omega

theorem window_getD (e : Buf) (d k : Nat) : (window e d).getD k 0 = e.toList.getD (Config.cap - d + k) 0 := by
  simp [window, List.getD]

/-- A count of at most six survives the three bits of `dcount` (R33). -/
theorem toNat_dcount (n : Nat) (h : n ≤ 6) : (BitVec.ofNat 3 n).toNat = n := by
  rw [BitVec.toNat_ofNat]; omega

/-- Phase 2 sends exactly what was loaded (R33, R193). -/
theorem phase2Data_loadDbuf (xs : List Byte) (s : State) (h : xs.length ≤ 6) : (s.loadDbuf xs).phase2Data = xs := by
  apply List.ext_getElem
  · simp only [State.phase2Data, State.loadDbuf_dcount, toNat_dcount _ h, List.length_take, Vector.length_toList]
    omega
  · intro k h1 h2
    simp only [State.phase2Data, State.loadDbuf_dbuf, List.getElem_take, Vector.getElem_toList]
    rw [writeFrom_get _ _ _ _ (by omega), if_pos (by omega)]
    simp [h2]

/-- One digit more for each division by ten (R163). -/
theorem digitsNeeded_small (m : Nat) (h : m / 10 = 0) : digitsNeeded m = 1 := by
  unfold digitsNeeded
  rcases Nat.eq_zero_or_pos m with h0 | h0
  · subst h0; simp
  · rw [Nat.digits_of_lt 10 m (by omega) (by omega)]; simp

theorem digitsNeeded_big (m : Nat) (h : m / 10 ≠ 0) : digitsNeeded m = 1 + digitsNeeded (m / 10) := by
  unfold digitsNeeded
  rw [Nat.digits_def' (by norm_num) (by omega : 0 < m)]
  have : 1 ≤ (Nat.digits 10 (m / 10)).length := List.length_pos_iff.2 (Nat.digits_ne_nil_iff_ne_zero.2 h)
  simp only [List.length_cons]
  omega

end Sys2Proof.Machine
end

