-- ==== Sys2Proof/Laws/FloatScale.lean ====
section
/-!
SUPPORT. The parts of the default FLOAT_SCALE (`41_encoder.md` R170), each with what it computes in the rationals: the
value of a float, the exponent of a ratio, the rounded quotient, the product and the truncation.
-/
namespace Sys2Proof

/-- A power of two with an integer exponent, as a quotient of natural powers. -/
theorem two_zpow_mul (k : Int) : (2 : ℚ) ^ k * 2 ^ (-k).toNat = 2 ^ k.toNat := by
  rcases le_total 0 k with h | h
  · obtain ⟨n, rfl⟩ := Int.eq_ofNat_of_zero_le h
    simp
  · obtain ⟨n, hn⟩ := Int.eq_ofNat_of_zero_le (show 0 ≤ -k by omega)
    obtain rfl : k = -(n : Int) := by omega
    simp

theorem two_zpow_add (a b : Int) : (2 : ℚ) ^ (a + b) = 2 ^ a * 2 ^ b := zpow_add₀ (by norm_num) a b

namespace Machine

/-- `divNearestEven` is within one half of the quotient, and even at one half. -/
theorem divNearestEven_spec (n d : Nat) (hd : 0 < d) :
    |(n : ℚ) / d - divNearestEven n d| ≤ 1 / 2 ∧
      (|(n : ℚ) / d - divNearestEven n d| = 1 / 2 → divNearestEven n d % 2 = 0) := by
  have hdq : (0 : ℚ) < d := by exact_mod_cast hd
  have hr : n % d < d := Nat.mod_lt _ hd
  have hx : (n : ℚ) / d = (n / d : Nat) + ((n % d : Nat) : ℚ) / d := by
    field_simp
    exact_mod_cast (Nat.div_add_mod n d).symm
  unfold divNearestEven
  set q := n / d
  set r := n % d
  rw [hx]
  simp only
  split
  · rename_i h
    have h2 : (r : ℚ) / d < 1 / 2 := by
      rw [div_lt_div_iff₀ hdq (by norm_num)]; exact_mod_cast (by omega : r * 2 < 1 * d)
    rw [show ((q : ℚ) + r / d - q) = r / d by ring, abs_of_nonneg (by positivity)]
    exact ⟨h2.le, fun h => absurd h h2.ne⟩
  · split
    · rename_i h
      have h2 : 1 / 2 < (r : ℚ) / d := by
        rw [div_lt_div_iff₀ (by norm_num) hdq]; exact_mod_cast (by omega : 1 * d < r * 2)
      have h3 : (r : ℚ) / d < 1 := by rw [div_lt_one hdq]; exact_mod_cast hr
      rw [show ((q : ℚ) + r / d - ((q + 1 : Nat) : ℚ)) = -(1 - r / d) by push_cast; ring, abs_neg,
        abs_of_nonneg (by linarith)]
      exact ⟨by linarith, fun h => absurd h (by linarith)⟩
    · have h2 : (r : ℚ) / d = 1 / 2 := by
        rw [div_eq_div_iff hdq.ne' (by norm_num)]; exact_mod_cast (by omega : r * 2 = 1 * d)
      rw [h2]
      refine ⟨?_, fun _ => by omega⟩
      rcases Nat.mod_two_eq_zero_or_one q with hq | hq <;> rw [hq] <;> push_cast <;> norm_num

/-- `floorLog2Ratio` is the exponent of the ratio's binade. -/
theorem floorLog2Ratio_spec (num den : Nat) (hn : 0 < num) (hd : 0 < den) :
    (2 : ℚ) ^ floorLog2Ratio num den ≤ (num : ℚ) / den ∧ (num : ℚ) / den < 2 ^ (floorLog2Ratio num den + 1) := by
  have hdq : (0 : ℚ) < den := by exact_mod_cast hd
  have a1 : (2 : ℚ) ^ Nat.log2 num ≤ num := by exact_mod_cast Nat.log2_self_le (by omega)
  have a2 : (num : ℚ) < 2 ^ (Nat.log2 num + 1) := by exact_mod_cast Nat.lt_log2_self
  have b1 : (2 : ℚ) ^ Nat.log2 den ≤ den := by exact_mod_cast Nat.log2_self_le (by omega)
  have b2 : (den : ℚ) < 2 ^ (Nat.log2 den + 1) := by exact_mod_cast Nat.lt_log2_self
  have hk : ∀ j : Int, den * 2 ^ j.toNat ≤ num * 2 ^ (-j).toNat ↔ (2 : ℚ) ^ j ≤ (num : ℚ) / den := by
    intro j
    have hp : (0 : ℚ) < 2 ^ (-j).toNat := by positivity
    have hc : den * 2 ^ j.toNat ≤ num * 2 ^ (-j).toNat ↔
        (den : ℚ) * 2 ^ j.toNat ≤ num * 2 ^ (-j).toNat := by exact_mod_cast Iff.rfl
    rw [le_div_iff₀ hdq, hc, ← two_zpow_mul j, ← mul_assoc, mul_le_mul_iff_left₀ hp, mul_comm]
  unfold floorLog2Ratio
  simp only
  set k : Int := (Nat.log2 num : Int) - (Nat.log2 den : Int)
  have up : (num : ℚ) / den < (2 : ℚ) ^ (k + 1) := by
    rw [div_lt_iff₀ hdq]
    have e : (2 : ℚ) ^ (k + 1) * 2 ^ Nat.log2 den = 2 ^ (Nat.log2 num + 1) := by
      rw [← zpow_natCast, ← zpow_natCast, ← two_zpow_add]; congr 1; simp [k]; ring
    have hz : (0 : ℚ) < (2 : ℚ) ^ (k + 1) := by positivity
    nlinarith [mul_le_mul_of_nonneg_left b1 hz.le]
  have lo : (2 : ℚ) ^ (k - 1) ≤ (num : ℚ) / den := by
    rw [le_div_iff₀ hdq]
    have e : (2 : ℚ) ^ (k - 1) * 2 ^ (Nat.log2 den + 1) = 2 ^ Nat.log2 num := by
      rw [← zpow_natCast, ← zpow_natCast, ← two_zpow_add]; congr 1; simp [k]
    have hz : (0 : ℚ) < (2 : ℚ) ^ (k - 1) := by positivity
    nlinarith [mul_le_mul_of_nonneg_left b2.le hz.le]
  split
  · exact ⟨(hk k).1 ‹_›, up⟩
  · exact ⟨lo, by simpa using not_le.1 (mt (hk k).2 ‹_›)⟩

/-- The magnitude of a finite float has its value (IEEE 754, R170). -/
theorem magnitude_value (f : Float64) (h : f.extractLsb' 52 11 ≠ 0x7FF#11) :
    ∃ a, magnitude f = some a ∧ a.value = floatAbs f := by
  unfold magnitude expField floatAbs FinFloat.value
  rw [if_neg (show ¬(f.extractLsb' 52 11).toNat = 2047 from fun h1 => h (BitVec.eq_of_toNat_eq h1))]
  by_cases h0 : (f.extractLsb' 52 11).toNat = 0
  · rw [if_pos h0, if_pos (show f.extractLsb' 52 11 = 0#11 from BitVec.eq_of_toNat_eq h0)]
    exact ⟨_, rfl, rfl⟩
  · rw [if_neg h0, if_neg fun hh : f.extractLsb' 52 11 = 0#11 => h0 (by rw [hh]; rfl)]
    exact ⟨_, rfl, by push_cast; rfl⟩

/-- NaN and the infinities have no magnitude. -/
theorem magnitude_notFinite (f : Float64) (h : f.extractLsb' 52 11 = 0x7FF#11) : magnitude f = none := by
  unfold magnitude expField
  rw [h]
  rfl

/-- `truncNat` is the integer part. -/
theorem truncNat_floor (a : FinFloat) : (truncNat a : Int) = ⌊a.value⌋ := by
  have p : (0 : ℚ) < 2 ^ (-a.exp).toNat := by positivity
  have e : a.value = ((a.mant * 2 ^ a.exp.toNat : Nat) : ℚ) / ((2 ^ (-a.exp).toNat : Nat) : ℚ) := by
    unfold FinFloat.value
    push_cast
    rw [← two_zpow_mul]
    field_simp
  rw [e, Rat.floor_natCast_div_natCast]
  rfl

/-- `productRatio` is the exact product. -/
theorem productRatio_value (a b : FinFloat) :
    ((productRatio a b).1 : ℚ) / (productRatio a b).2 = a.value * b.value ∧ 0 < (productRatio a b).2 := by
  refine ⟨?_, by unfold productRatio; positivity⟩
  unfold productRatio FinFloat.value
  push_cast
  rw [← two_zpow_mul, two_zpow_add]
  field_simp

end Machine

end Sys2Proof
end

