-- ==== Sys2Proof/Laws/Framer.lean ====
section
/-!
SUPPORT. Action lists of the framer: what they do to the flags, the record and the reference receiver, and how they are
counted.
-/
namespace Sys2Proof.Machine

/-- A list without SAMPLE keeps the flags and takes no level (R106). -/
theorem runActions_flags (as : List Action) (s : State) (h : Action.sample ∉ as) :
    (runActions as s).ackLast = s.ackLast ∧ (runActions as s).acc = s.acc ∧ (runActions as s).dioIn = s.dioIn ∧
      (runActions as s).draws = s.draws := by
  induction as generalizing s with
  | nil => exact ⟨rfl, rfl, rfl, rfl⟩
  | cons a as ih =>
    simp only [List.mem_cons, not_or] at h
    obtain ⟨h1, h2, h3, h4⟩ := ih (perform a s) h.2
    obtain ⟨g1, g2, g3, g4⟩ := perform_flags a s (fun e => h.1 e.symm)
    exact ⟨h1.trans g1, h2.trans g2, h3.trans g3, h4.trans g4⟩

/-- The record after a list without SAMPLE. -/
theorem runActions_trace (as : List Action) (s : State) (h : Action.sample ∉ as) :
    (runActions as s).trace = (eventsOf as []).reverse ++ s.trace := by
  induction as generalizing s with
  | nil => rfl
  | cons a as ih =>
    simp only [List.mem_cons, not_or] at h
    simp only [runActions, ih (perform a s) h.2]
    cases a <;>
      first
      | exact absurd rfl h.1
      | simp [eventsOf, perform, State.emit, State.setClk, State.setDio, State.setMode]

/-- Every action leaves one event. -/
theorem runActions_trace_length (as : List Action) (s : State) :
    (runActions as s).trace.length = as.length + s.trace.length := by
  induction as generalizing s with
  | nil => simp [runActions]
  | cons a as ih =>
    obtain ⟨e, he, _⟩ := perform_trace a s
    simp only [runActions, ih, he, List.length_cons]
    omega

/-- Line actions write no register but the lines, the flags and the draws (R81). -/
theorem runActions_sameBeside (as : List Action) (s : State) : State.SameBeside s (runActions as s) := by
  constructor <;> simp

theorem risingEdge_regs (l : Level) (r : Receiver) : (r.risingEdge l).regs = r.regs := by
  unfold Receiver.risingEdge
  split
  · split <;> rfl
  · rfl

/-- Only a stop condition, DIO rising while CLK is high, changes the reference receiver's registers (R64). -/
theorem perform_regs (a : Action) (s : State) (h : ∀ v, a = .dio v → v = false ∨ s.lines.clkQ = false) :
    (perform a s).rcv.regs = s.rcv.regs := by
  cases a with
  | clk v =>
    simp only [perform, State.emit, State.setClk]
    split
    · exact risingEdge_regs _ _
    · rfl
  | dio v =>
    rcases h v rfl with h | h
    · subst h
      simp only [perform, State.emit, State.setDio]
      split
      · simp only [Bool.not_false, Bool.and_true, Bool.and_false]
        split <;> rfl
      · rfl
    · simp [perform, State.emit, State.setDio, h]
  | mode m => rfl
  | wait => rfl
  | sample => rfl
  | diag => rfl

@[simp] theorem actionsOf_nil : actionsOf [] = [] := rfl

@[simp] theorem actionsOf_cons (m : MicroOp) (ms : List MicroOp) :
    actionsOf (m :: ms) = microActions m ++ actionsOf ms := by simp [actionsOf]

@[simp] theorem actionsOf_append (xs ys : List MicroOp) : actionsOf (xs ++ ys) = actionsOf xs ++ actionsOf ys := by
  simp [actionsOf]

@[simp] theorem waitCount_append (xs ys : List Action) : waitCount (xs ++ ys) = waitCount xs + waitCount ys := by
  simp [waitCount]

@[simp] theorem sampleCount_append (xs ys : List Action) : sampleCount (xs ++ ys) = sampleCount xs + sampleCount ys := by
  simp [sampleCount]

/-- Rising edges of a list in two parts, with CLK where the first part left it (R112). -/
theorem risingEdges_append (as bs : List Action) (l : Lines) :
    risingEdges (as ++ bs) l.clkQ = risingEdges as l.clkQ + risingEdges bs (linesAfter as l).clkQ := by
  induction as generalizing l with
  | nil => simp [risingEdges, linesAfter]
  | cons a as ih =>
    have := ih (lineEffect a l)
    cases a <;> simp_all [risingEdges, linesAfter, lineEffect]
    omega

/-- The lines after SENDBYTE (R107). -/
theorem linesAfter_sendByte (b : Byte) (l : Lines) :
    linesAfter (sendByteActions b) l = { clkQ := true, dioMode := .out, dioQ := b.getLsbD 7 } := rfl

/-- The lines after START (R101). -/
theorem linesAfter_start (l : Lines) : linesAfter startActions l = { l with dioQ := false } := rfl

/-- The lines after STOP (R109). -/
theorem linesAfter_stop (l : Lines) : linesAfter stopActions l = { l with clkQ := true, dioQ := true } := rfl

/-- The meaning of a micro-operation is its action list. -/
theorem exec_microOp (m : MicroOp) (s : State) : exec m.toInstr s = .next (runActions (microActions m) s) := by
  cases m <;> rfl

/-- The meanings of micro-operations in order are their action lists in order (R192). -/
theorem execMicroOps_eq (ms : List MicroOp) (s : State) : execMicroOps ms s = .next (runActions (actionsOf ms) s) := by
  induction ms generalizing s with
  | nil => rfl
  | cons m ms ih => simp [execMicroOps, exec_microOp, ih, runActions_append]

end Sys2Proof.Machine
end

