-- ==== Sys2Proof/Laws/Params.lean ====
section
/-!
SUPPORT. What a legal choice of the parameters gives (`00_scope.md` R9), one lemma per group, and FLOAT_SCALE where no
point replaces it.
-/
namespace Sys2Proof.Params

variable {p : Parameters}

/-- The segment tables (`20_memory.md` R53, R54). -/
theorem legal_tables (h : legal p = true) :
    (∀ b ∈ p.segHexTable.toList, b.getLsbD 7 = false ∧ b ≠ 0 ∧ b ≠ p.segMinus) ∧ p.segHexTable.toList.Nodup ∧
    (∀ b ∈ p.segAsciiDigits.toList, b ≠ 0) ∧ (∀ b ∈ p.segAsciiLetters.toList, b ≠ 0) ∧ p.segAsciiPoint ≠ 0 := by
  unfold legal at h
  simp only [Bool.and_eq_true, decide_eq_true_eq, List.all_eq_true, Bool.not_eq_true'] at h
  obtain ⟨⟨⟨⟨⟨⟨⟨⟨⟨⟨_, a⟩, b⟩, c⟩, d⟩, e⟩, _⟩, _⟩, _⟩, _⟩, _⟩ := h
  exact ⟨fun x hx => ⟨(a x hx).1.1, (a x hx).1.2, (a x hx).2⟩, b, c, d, e⟩

/-- The command bytes (`30_encoding.md` R76, R77). -/
theorem legal_bytes (h : legal p = true) :
    p.cmdData.extractLsb' 6 2 = 0b01#2 ∧ p.ctrlOn ≠ 0 ∧ p.ctrlOn &&& 0xC7 = 0 ∧
      p.ctrlOffByte.extractLsb' 6 2 = 0b10#2 ∧ p.ctrlOffByte &&& p.ctrlOn = 0 := by
  unfold legal at h
  simp only [Bool.and_eq_true, decide_eq_true_eq] at h
  tauto

/-- T_HOLD, the signed width and FLOAT_SCALE (R9, R110, R170). -/
theorem legal_rest (h : legal p = true) : 2 ≤ p.tHold ∧ 1 ≤ p.intWidth ∧ ∀ x ∈ p.floatPoints, floatPointLegal x = true := by
  unfold legal at h
  simp only [Bool.and_eq_true, decide_eq_true_eq, List.all_eq_true] at h
  obtain ⟨⟨⟨⟨⟨⟨⟨⟨⟨⟨a, _⟩, _⟩, _⟩, _⟩, _⟩, _⟩, _⟩, _⟩, b⟩, c⟩ := h
  exact ⟨a, b, c⟩

/-- What `pointAt` finds is one of the points, at these arguments. -/
theorem pointAt_mem {f : Float64} {precision : Int} {x : FloatPoint} :
    ∀ {xs : List FloatPoint}, pointAt f precision xs = some x → x ∈ xs ∧ x.fvalue = f ∧ x.precision = precision
  | [], h => by cases h
  | y :: ys, h => by
    unfold pointAt at h
    split at h
    · cases h; simp_all
    · have := pointAt_mem h; simp_all

/-- Without a point at these arguments `pointAt` finds none. -/
theorem pointAt_none {f : Float64} {precision : Int} :
    ∀ {xs : List FloatPoint}, (∀ x ∈ xs, ¬(x.fvalue = f ∧ x.precision = precision)) → pointAt f precision xs = none
  | [], _ => rfl
  | x :: xs, h => by
    unfold pointAt
    rw [if_neg (h x (by simp)), pointAt_none fun y hy => h y (by simp [hy])]

end Sys2Proof.Params
end

