-- ==== Sys2Proof/Laws/PerInstr.lean ====
section
/-!
SUPPORT. The family TableRow: the word an instruction encodes to, with the default command bytes, is a word of its row
of `opcode_table.json` (R70-R79).
-/
namespace Sys2Proof.Laws.TableRow

/-- The bits of an instruction's word, numbered as the opcode table numbers them. -/
def bitsOfCode : Code → Nat
  | .host r => r.cmdWord.toNat
  | .framer (.micro w) => w.toNat
  | .framer (.wire _ b) => b.toNat

/-- The mask and the match of an instruction's row; the last row fixes no bit. -/
def row : Instr → Nat × Nat
  | .init _ _ => (0xC7, 0x00)
  | .raw _ _ _ => (0xC7, 0x01)
  | .bcd _ _ _ => (0xC7, 0x02)
  | .ascii _ _ => (0xC7, 0x03)
  | .int _ _ _ => (0xC7, 0x04)
  | .float _ _ _ => (0xC7, 0x05)
  | .off _ => (0xC7, 0x06)
  | .start => (0x3FF, 0x000)
  | .sendByte _ => (0x300, 0x100)
  | .stop => (0x3FF, 0x200)
  | .dataCmd => (0xFF, 0x40)
  | .addrSet0 => (0xFF, 0xC0)
  | .dispCtrlOn _ => (0xF8, 0x88)
  | .dispOff => (0xFF, 0x80)
  | .segmentData _ => (0, 0)

/-- The word of `i` has its row's fixed bits. -/
def Statement (i : Instr) : Prop := bitsOfCode (encode Params.defaults i) &&& (row i).1 = (row i).2

/-- A host command word has its opcode in bits 2:0 and zeros in bits 7:6 (R70). -/
theorem hostWord_fixed (b op : BitVec 3) : (hostWord b op).toNat &&& 0xC7 = op.toNat := by revert b op; decide

theorem init (b : BitVec 3) (d : Byte) : Statement (.init b d) := hostWord_fixed b 0

theorem raw (b : BitVec 3) (data : List Byte) (count : Nat) : Statement (.raw b data count) := hostWord_fixed b 1

theorem bcd (b : BitVec 3) (vals : List Byte) (count : Nat) : Statement (.bcd b vals count) := hostWord_fixed b 2

theorem ascii (b : BitVec 3) (text : List Byte) : Statement (.ascii b text) := hostWord_fixed b 3

theorem int (b : BitVec 3) (value dpPos : Int) : Statement (.int b value dpPos) := hostWord_fixed b 4

theorem float (b : BitVec 3) (fvalue : Float64) (precision : Int) : Statement (.float b fvalue precision) :=
  hostWord_fixed b 5

theorem off (b : BitVec 3) : Statement (.off b) := hostWord_fixed b 6

theorem start : Statement .start := by unfold Statement; decide

theorem sendByte (b : Byte) : Statement (.sendByte b) := by unfold Statement; revert b; decide

theorem stop : Statement .stop := by unfold Statement; decide

theorem dataCmd : Statement .dataCmd := by unfold Statement; decide

theorem addrSet0 : Statement .addrSet0 := by unfold Statement; decide

theorem dispCtrlOn (b : BitVec 3) : Statement (.dispCtrlOn b) := by unfold Statement; revert b; decide

theorem dispOff : Statement .dispOff := by unfold Statement; decide

theorem segmentData (b : Byte) : Statement (.segmentData b) := by simp [Statement, row]

end Sys2Proof.Laws.TableRow
end

