-- ==== Sys2Proof/Laws/Step.lean ====
section
/-!
SUPPORT. The inversion lemmas: everything an instruction and a step can do when they answer a next state.
-/
namespace Sys2Proof.Machine

/-- An encoding command that is accepted: its window is loaded and the command latched (R195-R198). -/
theorem encoded_cases {i : Instr} {enc : Parameters → Nat → Except RejReason Buf} {s t : State}
    (h : accept i (requireConfig (prepEncoded enc)) s = .next t) :
    t = s ∨ (∃ r, t = s.refuse r) ∨
      (s.busy = false ∧ s.cfgValid = true ∧ ∃ e, enc s.params s.digits = .ok e ∧ t = (s.loadWindow e).latch i) := by
  rcases accept_cases i (requireConfig (prepEncoded enc)) s with ⟨_, h2⟩ | ⟨_, r, _, h2⟩ | ⟨hb, u, hp, h2⟩ <;>
    rw [h2] at h <;> cases h
  · exact .inl rfl
  · exact .inr (.inl ⟨r, rfl⟩)
  · obtain ⟨hc, hp⟩ := requireConfig_ok hp
    unfold prepEncoded at hp
    split at hp
    · cases hp
    · cases hp
      exact .inr (.inr ⟨hb, hc, _, ‹_›, rfl⟩)

/-- Everything an instruction can do: wait, be refused, install the configuration, run a micro-operation's actions,
latch OFF, or load the transmit buffer and latch a display command. -/
theorem exec_cases {i : Instr} {s t : State} (h : exec i s = .next t) :
    t = s ∨ (∃ r, t = s.refuse r) ∨
    (∃ b d, i = .init b d ∧ s.busy = false ∧ 1 ≤ d.toNat ∧ d.toNat ≤ 6 ∧
      t = ({ s with cfgDigitNum := d.setWidth 3, cfgValid := true } : State).latch i) ∨
    (i.isHost = false ∧ ∃ m : MicroOp, t = runActions (microActions m) s) ∨
    (∃ b, i = .off b ∧ s.busy = false ∧ s.cfgValid = true ∧ t = s.latch i) ∨
    (∃ xs e, i.displayBright ≠ none ∧ s.busy = false ∧ s.cfgValid = true ∧ xs.length ≤ s.digits ∧
      t = (({ s with ebuf := e } : State).loadDbuf xs).latch i) := by
  have enc : ∀ f, i.displayBright ≠ none → accept i (requireConfig (prepEncoded f)) s = .next t →
      t = s ∨ (∃ r, t = s.refuse r) ∨ (∃ xs e, i.displayBright ≠ none ∧ s.busy = false ∧ s.cfgValid = true ∧
        xs.length ≤ s.digits ∧ t = (({ s with ebuf := e } : State).loadDbuf xs).latch i) := by
    intro f hi hx
    rcases encoded_cases hx with hx | hx | ⟨hb, hc, e, _, hx⟩
    · exact .inl hx
    · exact .inr (.inl hx)
    · refine .inr (.inr ⟨window e s.digits, e, hi, hb, hc, ?_, hx⟩)
      simp only [window, Config.cap, List.length_drop, Vector.length_toList]
      omega
  cases i
  case init b d =>
    rcases accept_cases (.init b d) (prepInit d) s with ⟨_, h2⟩ | ⟨_, r, _, h2⟩ | ⟨hb, u, hp, h2⟩ <;>
      rw [exec, execInit, h2] at h <;> cases h
    · exact .inl rfl
    · exact .inr (.inl ⟨r, rfl⟩)
    · unfold prepInit at hp
      split at hp
      · cases hp
      · cases hp
        rename_i hd
        simp only [Config.cap] at hd
        exact .inr (.inr (.inl ⟨b, d, rfl, hb, by omega, by omega, rfl⟩))
  case raw b data count =>
    rcases accept_cases (.raw b data count) (requireConfig (prepRaw data count)) s with
      ⟨_, h2⟩ | ⟨_, r, _, h2⟩ | ⟨hb, u, hp, h2⟩ <;> rw [exec, execRaw, h2] at h <;> cases h
    · exact .inl rfl
    · exact .inr (.inl ⟨r, rfl⟩)
    · obtain ⟨hc, hp⟩ := requireConfig_ok hp
      simp only [prepRaw] at hp
      split at hp
      · cases hp
      · cases hp
        refine .inr (.inr (.inr (.inr (.inr
          ⟨data.take (clampCount count s.digits), s.ebuf, by simp [Instr.displayBright], hb, hc, ?_, rfl⟩))))
        simp only [List.length_take, clampCount]
        omega
  case off b =>
    rcases accept_cases (.off b) (requireConfig .ok) s with ⟨_, h2⟩ | ⟨_, r, _, h2⟩ | ⟨hb, u, hp, h2⟩ <;>
      rw [exec, execOff, h2] at h <;> cases h
    · exact .inl rfl
    · exact .inr (.inl ⟨r, rfl⟩)
    · obtain ⟨hc, hp⟩ := requireConfig_ok hp
      cases hp
      exact .inr (.inr (.inr (.inr (.inl ⟨b, rfl, hb, hc, rfl⟩))))
  case start => cases h; exact .inr (.inr (.inr (.inl ⟨rfl, .start, rfl⟩)))
  case stop => cases h; exact .inr (.inr (.inr (.inl ⟨rfl, .stop, rfl⟩)))
  case sendByte => cases h; exact .inr (.inr (.inr (.inl ⟨rfl, .sendByte _, rfl⟩)))
  case dataCmd => cases h; exact .inr (.inr (.inr (.inl ⟨rfl, .sendByte _, rfl⟩)))
  case addrSet0 => cases h; exact .inr (.inr (.inr (.inl ⟨rfl, .sendByte _, rfl⟩)))
  case dispCtrlOn => cases h; exact .inr (.inr (.inr (.inl ⟨rfl, .sendByte _, rfl⟩)))
  case dispOff => cases h; exact .inr (.inr (.inr (.inl ⟨rfl, .sendByte _, rfl⟩)))
  case segmentData => cases h; exact .inr (.inr (.inr (.inl ⟨rfl, .sendByte _, rfl⟩)))
  all_goals
    rcases enc _ (by simp [Instr.displayBright]) h with h | h | h
    · exact .inl h
    · exact .inr (.inl h)
    · exact .inr (.inr (.inr (.inr (.inr h))))

/-- An instruction always answers a next state. -/
theorem exec_next (i : Instr) (s : State) : ∃ t, exec i s = .next t := by
  have acc : ∀ j p, ∃ t, accept j p s = .next t := by
    intro j p
    rcases accept_cases j p s with ⟨_, h⟩ | ⟨_, r, _, h⟩ | ⟨_, t, _, h⟩ <;> exact ⟨_, h⟩
  cases i
  case init => exact acc _ _
  case raw => exact acc _ _
  case bcd => exact acc _ _
  case ascii => exact acc _ _
  case int => exact acc _ _
  case float => exact acc _ _
  case off => exact acc _ _
  all_goals exact ⟨_, rfl⟩

/-- A word either runs its instruction or is refused. -/
theorem runCode_cases {c : Code} {s t : State} (h : runCode c s = .next t) :
    (∃ i, decode s.params c = .ok i ∧ exec i s = .next t) ∨ (∃ r, t = s.refuse r) := by
  unfold runCode at h
  split at h
  · exact .inl ⟨_, ‹_›, h⟩
  · rename_i e _
    cases e <;> simp only [onDecodeError] at h <;> cases h <;> exact .inr ⟨_, rfl⟩

/-- Everything a step can do: reset, run a word of the framer port, go on with the running command, stay idle, or take
the host's request. -/
theorem step_cases {s t : State} (h : step s = .next t) :
    (s.rst = true ∧ t = takeReset s) ∨
    (s.rst = false ∧ ∃ f, s.framerIn = some f ∧ runCode (.framer f) { s with framerIn := none } = .next t) ∨
    (s.rst = false ∧ s.framerIn = none ∧ s.busy = true ∧ t = busyStep s) ∨
    (s.rst = false ∧ s.framerIn = none ∧ s.busy = false ∧ s.host = [] ∧ t = s) ∨
    (s.rst = false ∧ s.framerIn = none ∧ s.busy = false ∧
      ∃ r rest, s.host = r :: rest ∧ runCode (.host r) { s with host := rest } = .next t) := by
  unfold step at h
  split at h
  · cases h; exact .inl ⟨‹_›, rfl⟩
  · rename_i hr
    have hr : s.rst = false := by simpa using hr
    split at h
    · exact .inr (.inl ⟨hr, _, ‹_›, h⟩)
    · rename_i hf
      split at h
      · cases h; exact .inr (.inr (.inl ⟨hr, hf, ‹_›, rfl⟩))
      · rename_i hb
        have hb : s.busy = false := by simpa using hb
        split at h
        · cases h; exact .inr (.inr (.inr (.inl ⟨hr, hf, hb, ‹_›, rfl⟩)))
        · exact .inr (.inr (.inr (.inr ⟨hr, hf, hb, _, _, ‹_›, h⟩)))

/-- The step of a busy block. -/
theorem step_busy {s : State} (h1 : s.rst = false) (h2 : s.framerIn = none) (h3 : s.busy = true) :
    step s = .next (busyStep s) := by
  simp [step, h1, h2, h3]

end Sys2Proof.Machine
end

