-- ==== Sys2Proof/Laws/Run.lean ====
section
/-!
SUPPORT. Runs of several steps: one step at a time, in two parts, and the steps of a busy block as a part of its action
list (R28, R192).
-/
namespace Sys2Proof.Machine

/-- A run's first step. -/
theorem run_next {s t : State} (k : Nat) (h : step s = .next t) : core.run (k + 1) s = core.run k t := by
  have h' : core.step s = .next t := h
  simp [Host.Core.run, h']

/-- A run in two parts. -/
theorem run_add {m : Nat} (n : Nat) {s t : State} (h : core.run m s = .next t) :
    core.run (m + n) s = core.run n t := by
  induction m generalizing s with
  | zero => cases h; simp
  | succ m ih =>
    rw [Nat.add_right_comm]
    cases hs : step s with
    | next u => rw [run_next _ hs] at h ⊢; exact ih h
    | fault r => have h' : core.step s = _ := hs; simp [Host.Core.run, h'] at h
    | refused r => have h' : core.step s = _ := hs; simp [Host.Core.run, h'] at h

/-- The action list depends on the latched command, the transmit buffer and the parameters alone (R192). -/
theorem actions_congr {s t : State} (h0 : t.params = s.params) (h1 : t.cur = s.cur) (h2 : t.dbuf = s.dbuf) (h3 : t.dcount = s.dcount) :
    t.actions = s.actions := by
  simp [State.actions, State.ops, State.phase2Data, h0, h1, h2, h3]

/-- Line actions neither read nor write `pc`. -/
theorem runActions_setPc (as : List Action) (s : State) (n : Nat) :
    runActions as { s with pc := n } = { runActions as s with pc := n } := by
  induction as generalizing s with
  | nil => rfl
  | cons a as ih =>
    have : perform a { s with pc := n } = { perform a s with pc := n } := by cases a <;> rfl
    simp only [runActions, this, ih]

/-- `k` steps of a busy block perform the next `k` actions of its list (R28, R60). -/
theorem run_busy (k : Nat) (s : State) (h1 : s.rst = false) (h2 : s.framerIn = none) (h3 : s.busy = true)
    (h : s.pc + k ≤ s.actions.length) :
    core.run k s = .next { runActions ((s.actions.drop s.pc).take k) s with pc := s.pc + k } := by
  induction k generalizing s with
  | zero => simp [Host.Core.run, runActions]
  | succ k ih =>
    have hlt : s.pc < s.actions.length := by omega
    have hb : step s = .next (s.advance s.actions[s.pc]) := by
      rw [step_busy h1 h2 h3, busyStep, List.getElem?_eq_getElem hlt]
    have hact : (s.advance s.actions[s.pc]).actions = s.actions :=
      actions_congr (by simp [State.advance]) (by simp [State.advance]) (by simp [State.advance]) (by simp [State.advance])
    rw [run_next _ hb, ih _ (by simp [State.advance, h1]) (by simp [State.advance, h2]) (by simp [State.advance, h3])
      (by rw [hact]; simp only [State.advance]; omega), hact, List.drop_eq_getElem_cons hlt, List.take_succ_cons]
    simp only [runActions, State.advance, runActions_setPc]
    congr 2
    omega

/-- Past the end of the list a busy step is the completion (R31). -/
theorem step_complete {s : State} (h1 : s.rst = false) (h2 : s.framerIn = none) (h3 : s.busy = true)
    (h : s.actions.length ≤ s.pc) : step s = .next (complete s) := by
  rw [step_busy h1 h2 h3, busyStep, List.getElem?_eq_none h]

end Sys2Proof.Machine
end

