-- ==== Sys2Proof/Tests/Slice0.lean ====
section
/-!
SUPPORT. The model's own tests. Expected results are those of `95_test_vectors.md` (E, T and P numbers), or are written
out from the encodings of `30_encoding.md`. The last part holds the witnesses of the obligations' hypotheses.
-/
namespace Sys2Proof.Tests
open Sys2Proof Sys2Proof.Machine

/-- An idle block configured for `d` digits, whose receiver acknowledges the next ten bytes. -/
def idleAt (d : BitVec 3) : State :=
  { State.reset with cfgValid := true, cfgDigitNum := d, dioIn := List.replicate 10 false }

/-- The state of a next outcome. -/
def nextOf (r : Result) : Option State :=
  match r with
  | .next t => some t
  | .fault _ => none
  | .refused _ => none

/-- A field of the state after an instruction. -/
def after {α : Type} (i : Instr) (s : State) (f : State → α) : Option α := (nextOf (exec i s)).map f

/-- The levels a block put on DIO, oldest first. -/
def wireBits (t : State) : List Level :=
  t.trace.reverse.filterMap fun e =>
    match e with
    | .dio v => some v
    | _ => none

/-! ## Well-formed instructions (R72) -/

theorem test_wf_init : (Instr.init 0 6).WellFormed Params.defaults = true := by decide
theorem test_wf_init_low : (Instr.init 0 0).WellFormed Params.defaults = false := by decide
theorem test_wf_init_high : (Instr.init 0 7).WellFormed Params.defaults = false := by decide
theorem test_wf_raw : (Instr.raw 0 [1, 2] 2).WellFormed Params.defaults = true := by decide
theorem test_wf_raw_short : (Instr.raw 0 [1, 2] 3).WellFormed Params.defaults = false := by decide
theorem test_wf_bcd : (Instr.bcd 0 [15] 1).WellFormed Params.defaults = true := by decide
theorem test_wf_bcd_short : (Instr.bcd 0 [15] 2).WellFormed Params.defaults = false := by decide
theorem test_wf_bcd_range : (Instr.bcd 0 [16] 1).WellFormed Params.defaults = false := by decide
theorem test_wf_ascii : (Instr.ascii 0 [127]).WellFormed Params.defaults = true := by decide
theorem test_wf_ascii_range : (Instr.ascii 0 [128]).WellFormed Params.defaults = false := by decide
theorem test_wf_int_wide : (Instr.int 0 (2 ^ 31) 0).WellFormed Params.defaults = false := by decide
theorem test_wf_int_point_wide : (Instr.int 0 0 (-2 ^ 31 - 1)).WellFormed Params.defaults = false := by decide
theorem test_wf_int : (Instr.int 0 (-2 ^ 31) (2 ^ 31 - 1)).WellFormed Params.defaults = true := by decide
theorem test_wf_float : (Instr.float 0 0x4028AE147AE147AE 2).WellFormed Params.defaults = true := by decide +kernel
/-- T3.32: 1e10 scales to no Int32. -/
theorem test_wf_float_wide : (Instr.float 0 0x4202A05F20000000 0).WellFormed Params.defaults = false := by decide +kernel
theorem test_wf_float_precision_wide : (Instr.float 0 0 (2 ^ 31)).WellFormed Params.defaults = false := by decide
theorem test_wf_float_infinite : (Instr.float 0 0x7FF0000000000000 0).WellFormed Params.defaults = false := by decide
theorem test_wf_float_nan : (Instr.float 0 0x7FF8000000000000 0).WellFormed Params.defaults = false := by decide

/-! ## Decoding: one word written out bit by bit for every constructor (R70-R79)

Host words are rsv, bright, op, from bit 7 down. -/

theorem test_decode_init : decodeTableWord 8 0b00_000_000 = some (.init 0 0) := by decide
theorem test_decode_raw : decodeTableWord 8 0b00_111_001 = some (.raw 7 [] 0) := by decide
theorem test_decode_bcd : decodeTableWord 8 0b00_010_010 = some (.bcd 2 [] 0) := by decide
theorem test_decode_ascii : decodeTableWord 8 0b00_000_011 = some (.ascii 0 []) := by decide
theorem test_decode_int : decodeTableWord 8 0b00_011_100 = some (.int 3 0 0) := by decide
theorem test_decode_float : decodeTableWord 8 0b00_001_101 = some (.float 1 0 0) := by decide
theorem test_decode_off : decodeTableWord 8 0b00_111_110 = some (.off 7) := by decide
theorem test_decode_start : decodeTableWord 16 0b00_00000000 = some .start := by decide
theorem test_decode_sendByte : decodeTableWord 16 0b01_11000000 = some (.sendByte 0xC0) := by decide
theorem test_decode_stop : decodeTableWord 16 0b10_00000000 = some .stop := by decide
theorem test_decode_dataCmd : decodeTableWord 8 0b01000000 = some .dataCmd := by decide
theorem test_decode_addrSet0 : decodeTableWord 8 0b11000000 = some .addrSet0 := by decide
theorem test_decode_dispCtrlOn : decodeTableWord 8 0b10001_101 = some (.dispCtrlOn 5) := by decide
theorem test_decode_dispOff : decodeTableWord 8 0b10000000 = some .dispOff := by decide
theorem test_decode_segmentData : decodeTableWord 8 0b11011011 = some (.segmentData 0xDB) := by decide

/-- R72: an opcode reads the arguments it names. -/
theorem test_decode_arguments :
    decode Params.defaults (.host ⟨0x1C, { Args.zero with value := 5, dpPos := 2, count := 9, data := [1] }⟩) = .ok (.int 3 5 2) := by
  decide

/-- T5.6: the reserved bits come first. -/
theorem test_decode_reserved_bits : decode Params.defaults (.host ⟨0x47, Args.zero⟩) = .error .reservedBits := by decide
/-- T5.8. -/
theorem test_decode_reserved_opcode : decode Params.defaults (.host ⟨0x0F, Args.zero⟩) = .error .reservedOpcode := by decide
/-- R75, U7. -/
theorem test_decode_micro_kind : decode Params.defaults (.framer (.micro 0x300)) = .error .reservedMicroKind := by decide
/-- R75: the byte field of STOP is zero. -/
theorem test_decode_micro_byte : decode Params.defaults (.framer (.micro 0x201)) = .error .microByteNotZero := by decide
/-- R76-R78. -/
theorem test_decode_not_command : decode Params.defaults (.framer (.wire .command 0x44)) = .error .notWireCommand := by decide

/-! ## The assembler (R83; log 31) -/

/-- `BCD b=2, [1,2,10], 3` of T4.9. -/
theorem test_assemble_bcd : assembleLine Params.defaults
    ['B', 'C', 'D', ' ', 'b', '=', '2', ',', ' ', '[', '1', ',', '2', ',', '1', '0', ']', ',', ' ', '3'] =
      some (.bcd 2 [1, 2, 10] 3) := by decide +kernel
/-- A byte list is elements with one comma between each two. -/
theorem test_assemble_lists : readBytes (tokens ['[', '1', ' ', '2', ']']) = none ∧
    readBytes (tokens ['[', '1', ',', ',', '2', ']']) = none ∧ readBytes (tokens ['[', ',', '1', ']']) = none ∧
    readBytes (tokens ['[', '1', ',', ']']) = none ∧ readBytes (tokens ['[', ']']) = some ([], []) := by decide +kernel
/-- A text the line does not close is not read, in OFF's line either (log 31). -/
theorem test_assemble_open_text : assembleLine Params.defaults ['O', 'F', 'F', ' ', quoteChar, 'A'] = none ∧
    assembleLine Params.defaults ['A', 'S', 'C', 'I', 'I', ' ', quoteChar, 'A'] = none ∧
    assembleLine Params.defaults ['A', 'S', 'C', 'I', 'I', ' ', quoteChar, 'A', quoteChar] = some (.ascii 0 [0x41]) := by
  decide

/-- A point stands between digits. -/
theorem test_assemble_points : readDecimal ['5', '.'] = none ∧ readDecimal ['.', '5'] = none ∧
    readDecimal ['.'] = none ∧ readDecimal ['5', '.', '2', '5'] = some (525, 100) := by decide +kernel
/-- 12.34 is the binary64 value of R170's example. -/
theorem test_assemble_float : readFloatLit false ['1', '2', '.', '3', '4'] = some 0x4028AE147AE147AE := by decide +kernel

/-! ## The parameters (R9) -/

/-- Another legal choice: a data command of another mode, a longer hold, a given FLOAT_SCALE point (3 for 2.5 and 0), and
16-bit integers. -/
def others : Parameters :=
  { Params.defaults with tHold := 5, cmdData := 0x44, intWidth := 16, floatPoints := [⟨0x4004000000000000, 0, some 3⟩] }

theorem test_others_legal : Params.legal others = true := by decide
/-- D16: the bound on T_HOLD. -/
theorem test_short_hold_illegal : Params.legal { Params.defaults with tHold := 1 } = false := by decide
/-- P3: the minus sign is no hex digit. -/
theorem test_minus_digit_illegal : Params.legal { Params.defaults with segMinus := 0x3F } = false := by decide
/-- R170: a replacement keeps 1234 for 12.34 and 2. -/
theorem test_scale_illegal :
    Params.legal { Params.defaults with floatPoints := [⟨0x4028AE147AE147AE, 2, some 1233⟩] } = false := by decide
/-- The phases and the least time follow the parameters. -/
theorem test_others_sent : displayOps others 0 [] = frameOps [0x44] ++ frameOps [0xC0] ++ frameOps [0x88] ∧
    minTimeUs others (actionsOf (frameOps [0x80])) = 110 := by decide
/-- FLOAT follows the given point: 3, where the default truncates to 2. -/
theorem test_others_float : after (.float 0 0x4004000000000000 0) { idleAt 1 with params := others } (·.phase2Data) =
    some [0x4F] ∧ after (.float 0 0x4004000000000000 0) (idleAt 1) (·.phase2Data) = some [0x5B] := by decide +kernel
/-- R242, P3: after a command with an AckFailure the receiver's registers are a fresh free value. -/
theorem test_failed_command_receiver :
    (nextOf (step { (idleAt 4).latch (.off 0) with pc := 56, acc := false, diagSent := true })).map (·.rcv.unknowns) =
      some 1 := by decide

/-! ## The host commands, one acceptance step each -/

/-- T4.1. -/
theorem test_init : after (.init 0 4) State.reset (fun t => (t.cfgValid, t.cfgDigitNum, t.busy, t.actions)) =
    some (true, 4, true, []) := by decide
/-- T5.4. -/
theorem test_init_refused : after (.init 0 7) State.reset (fun t => (t.trace, t.cfgValid, t.refused)) =
    some ([.rej 4], false, true) := by decide
/-- T4.3: the count is clamped. -/
theorem test_raw_clamps : after (.raw 0 [1, 2, 3, 4, 5, 6] 6) (idleAt 4) (fun t => (t.dcount, t.dbuf.toList, t.ops)) =
    some (4, [1, 2, 3, 4, 0, 0],
      frameOps [0x40] ++ frameOps [0xC0, 1, 2, 3, 4] ++ frameOps [0x88]) := by decide
/-- T5.9. -/
theorem test_raw_refused : after (.raw 0 [1, 2] 4) (idleAt 4) (fun t => (t.trace, t.busy)) =
    some ([.rej 5], false) := by decide
/-- T2.1, T4.9. -/
theorem test_bcd : after (.bcd 2 [1, 2, 10] 3) (idleAt 4) (fun t => (t.ebuf.toList, t.phase2Data)) =
    some ([0, 0, 0, 0x06, 0x5B, 0x77], [0, 0x06, 0x5B, 0x77]) := by decide
/-- T5.12: ArgLength beats BcdRange. -/
theorem test_bcd_refused : after (.bcd 0 [20] 3) (idleAt 4) (·.trace) = some [.rej 5] := by decide
/-- T2.14: "3.14". -/
theorem test_ascii : after (.ascii 0 [0x33, 0x2E, 0x31, 0x34]) (idleAt 4) (·.phase2Data) =
    some [0x4F, 0x80, 0x06, 0x66] := by decide
/-- T5.14. -/
theorem test_ascii_refused : after (.ascii 0 [0xC8, 0x31]) (idleAt 4) (·.trace) = some [.rej 7] := by decide
/-- T3.4: "-0.5". -/
theorem test_int_point : after (.int 0 (-5) 1) (idleAt 4) (·.phase2Data) = some [0, 0x40, 0xBF, 0x6D] := by decide
/-- T3.6: the magnitude 2^31, and no room for the sign. -/
theorem test_int_most_negative : after (.int 0 (-2147483648) (-1)) (idleAt 6) (·.phase2Data) =
    some [0x66, 0x7F, 0x4F, 0x7D, 0x66, 0x7F] := by decide
/-- T3.9: 0.29 with two places truncates to 0.28. -/
theorem test_float_truncates : after (.float 0 0x3FD28F5C28F5C28F 2) (idleAt 4) (·.phase2Data) =
    some [0, 0xBF, 0x5B, 0x7F] := by decide +kernel
/-- T5.16, T3.31: 123.45 does not fit four digits. -/
theorem test_float_refused : after (.float 0 0x405EDCCCCCCCCCCD 2) (idleAt 4) (·.trace) = some [.rej 8] := by
  decide +kernel
/-- T4.14: `bright` is ignored. -/
theorem test_off : after (.off 7) (idleAt 4) (fun t => (t.ops, t.dcount)) =
    some ([.start, .sendByte 0x80, .stop], 0) := by decide
/-- T5.2. -/
theorem test_off_refused : after (.off 0) State.reset (·.trace) = some [.rej 3] := by decide

/-- T4.2: the micro-operation words of RAW. -/
theorem test_micro_words : (displayOps Params.defaults 7 [0x3F, 0x06, 0x5B, 0x4F]).map encodeMicro =
    [0x000, 0x140, 0x200, 0x000, 0x1C0, 0x13F, 0x106, 0x15B, 0x14F, 0x200, 0x000, 0x18F, 0x200] := by decide

/-! ## The micro-operations and wire bytes -/

/-- T1.1. -/
theorem test_start : after .start (idleAt 4) (fun t => (t.lines, t.trace)) =
    some ({ clkQ := true, dioMode := .out, dioQ := false }, [.wait, .dio false]) := by decide
/-- T1.3: the bits of 0xA5 and the line after it. -/
theorem test_sendByte : after (.sendByte 0xA5) (idleAt 4)
    (fun t => (wireBits t, t.lines.dioQ, t.ackLast)) =
    some ([true, false, true, false, false, true, false, true], true, true) := by decide
/-- T1.5: a byte that is not acknowledged. -/
theorem test_sendByte_nack : after (.sendByte 0x40) { idleAt 4 with dioIn := [true], acc := true }
    (fun t => (t.ackLast, t.acc)) = some (false, false) := by decide
/-- T1.6: STOP after SENDBYTE 0x40. -/
theorem test_stop : after .stop { idleAt 4 with lines := { Lines.idle with dioQ := false } }
    (fun t => (t.trace.reverse, t.lines)) =
    some ([.clk false, .dio false, .wait, .clk true, .wait, .dio true, .wait], Lines.idle) := by decide
/-- R77: bit 6 alone. -/
theorem test_dataCmd : after .dataCmd (idleAt 4) wireBits =
    some [false, false, false, false, false, false, true, false] := by decide
/-- R78: bits 6 and 7. -/
theorem test_addrSet0 : after .addrSet0 (idleAt 4) wireBits =
    some [false, false, false, false, false, false, true, true] := by decide
/-- R76: the brightness is in bits 2:0, bit 3 is set. -/
theorem test_dispCtrlOn : after (.dispCtrlOn 5) (idleAt 4) wireBits =
    some [true, false, true, true, false, false, false, true] := by decide
/-- R200: bit 7 alone. -/
theorem test_dispOff : after .dispOff (idleAt 4) wireBits =
    some [false, false, false, false, false, false, false, true] := by decide
/-- R79: "2." is 0xDB. -/
theorem test_segmentData : after (.segmentData 0xDB) (idleAt 4) wireBits =
    some [true, true, false, true, true, false, true, true] := by decide

/-! ## Witnesses: states and operands that meet the hypotheses of the obligations -/

/-- RAW of T4.2. -/
def raw4 : Instr := .raw 7 [0x3F, 0x06, 0x5B, 0x4F] 4

/-- The block after the acceptance of T4.2. -/
def accepted : State := ((idleAt 4).loadDbuf [0x3F, 0x06, 0x5B, 0x4F]).latch raw4

/-- The block after the acceptance of OFF, in the completion: `levels` for a receiver that does not answer. -/
def ending (acc diagSent : Bool) : State := { (idleAt 4).latch (.off 0) with pc := 56, acc := acc, diagSent := diagSent }

/-- The host presents a word with arguments of zeros. -/
def presenting (w : Byte) : State := { idleAt 4 with host := [⟨w, Args.zero⟩] }

theorem test_accepted_is_reached : nextOf (exec raw4 (idleAt 4)) = some accepted := by decide

theorem witness_legal : Params.legal Params.defaults = true := by decide

theorem witness_EncodeOfDecode : decode Params.defaults (.host ⟨0x39, Args.zero⟩) = .ok (.raw 7 [] 0) ∧
    decode Params.defaults (.framer (.micro 0x140)) = .ok (.sendByte 0x40) := by decide

theorem witness_ReservedHostWords :
    ((presenting 0x47).host = [⟨0x47, Args.zero⟩] ∧ (presenting 0x47).Ready ∧ (0x47#8).extractLsb' 6 2 ≠ 0) ∧
    ((presenting 0x07).host = [⟨0x07, Args.zero⟩] ∧ (presenting 0x07).Ready ∧ (0x07#8).extractLsb' 6 2 = 0 ∧ (0x07#8).extractLsb' 0 3 = 0b111#3) ∧
    ((presenting 0x3E).host = [⟨0x3E, Args.zero⟩] ∧ (presenting 0x3E).Ready ∧ (0x3E#8).extractLsb' 6 2 = 0 ∧ (0x3E#8).extractLsb' 0 3 ≠ 0b111#3) :=
  ⟨⟨rfl, ⟨rfl, rfl, rfl⟩, by decide⟩, ⟨rfl, ⟨rfl, rfl, rfl⟩, by decide, by decide⟩,
    ⟨rfl, ⟨rfl, rfl, rfl⟩, by decide, by decide⟩⟩

/-- R83: `INT b=3, -12, -1` of T4.11. -/
theorem witness_AssembledWordDecodes :
    assembleLine Params.defaults ['I', 'N', 'T', ' ', 'b', '=', '3', ',', ' ', '-', '1', '2', ',', ' ', '-', '1'] =
      some (.int 3 (-12) (-1)) := by decide +kernel

theorem witness_StepRunsDecoded :
    ((presenting 0x06).host = [⟨0x06, Args.zero⟩] ∧ (presenting 0x06).Ready ∧ decode Params.defaults (.host ⟨0x06, Args.zero⟩) = .ok (.off 0)) ∧
    (({ idleAt 4 with framerIn := some (.micro 0x140) } : State).rst = false ∧
      decode Params.defaults (.framer (.micro 0x140)) = .ok (.sendByte 0x40)) :=
  ⟨⟨rfl, ⟨rfl, rfl, rfl⟩, by decide⟩, by decide⟩

theorem witness_IdleStays : State.reset.Ready ∧ State.reset.host = [] := ⟨⟨rfl, rfl, rfl⟩, rfl⟩

/-- T4.16: a command is presented while another runs. -/
theorem witness_BusyDoesNotTake :
    ({ accepted with host := [⟨0x06, Args.zero⟩] } : State).rst = false ∧
    ({ accepted with host := [⟨0x06, Args.zero⟩] } : State).framerIn = none ∧
    ({ accepted with host := [⟨0x06, Args.zero⟩] } : State).busy = true := by decide

theorem witness_HostCommandWaitsWhileBusy : (Instr.off 0).isHost = true ∧ accepted.busy = true := by decide

theorem witness_StepAlwaysAnswers : State.reset.framerIn = none := rfl

/-- OFF: START first, then SENDBYTE, then STOP. -/
theorem witness_LineStateBetweenMicroOps : (Instr.off 0).isHost = true ∧
    opsOf Params.defaults (.off 0) [] = [] ++ .start :: [.sendByte 0x80, .stop] ∧
    opsOf Params.defaults (.off 0) [] = [.start, .sendByte 0x80] ++ .stop :: [] := by decide

/-- T1.9: START's fall at index 0, STOP's rise at index 54. -/
theorem witness_DioActionsWhileClkHigh :
    ((actionsOf (frameOps [0x40]))[0]? = some (.dio false) ∧
      (linesAfter ((actionsOf (frameOps [0x40])).take 0) Lines.idle).clkQ = true) ∧
    ((actionsOf (frameOps [0x40]))[54]? = some (.dio true) ∧
      (linesAfter ((actionsOf (frameOps [0x40])).take 54) Lines.idle).clkQ = true) := by decide

/-- T1.7: the SAMPLE of OFF is at index 45. -/
theorem witness_SampleOnlyInInputMode : (Instr.off 0).isHost = true ∧
    (actionsOf (opsOf Params.defaults (.off 0) []))[45]? = some .sample ∧
    (actionsOf (opsOf Params.defaults (.off 0) []))[54]? = some (.dio true) := by decide

/-- R54: where its rows meet. -/
theorem witness_SegAsciiRows :
    Params.segAscii Params.defaults 0x2E = 0x80 ∧ Params.segAscii Params.defaults 0x2F = 0 ∧ Params.segAscii Params.defaults 0x30 = 0x3F ∧ Params.segAscii Params.defaults 0x39 = 0x6F ∧
    Params.segAscii Params.defaults 0x3A = 0 ∧ Params.segAscii Params.defaults 0x40 = 0 ∧ Params.segAscii Params.defaults 0x41 = 0x77 ∧ Params.segAscii Params.defaults 0x46 = 0x71 ∧
    Params.segAscii Params.defaults 0x47 = 0 ∧ Params.segAscii Params.defaults 0x60 = 0 ∧ Params.segAscii Params.defaults 0x61 = 0x77 ∧ Params.segAscii Params.defaults 0x66 = 0x71 ∧
    Params.segAscii Params.defaults 0x67 = 0 ∧ Params.segAscii Params.defaults 127 = 0 := by decide

/-- R53: first and last entry. -/
theorem witness_SegHexProperties : Params.segHex Params.defaults 0 = 0x3F ∧ Params.segHex Params.defaults 15 = 0x71 := by decide

/-- E3: the ends of the range. -/
theorem witness_IntegerRoundTrip :
    window (encodeDecimal Params.defaults (-99999) (-1)) 6 = [0x40, 0x6F, 0x6F, 0x6F, 0x6F, 0x6F] ∧
    window (encodeDecimal Params.defaults 999999 (-1)) 6 = [0x6F, 0x6F, 0x6F, 0x6F, 0x6F, 0x6F] := by decide

/-- T3.26 fits four digits exactly; T3.31 does not. -/
theorem witness_FitsIsTheRule : fits (-999) 2 4 = true ∧ fits 12345 2 4 = false ∧ ndigits 1 = 1 ∧ ndigits 10 = 2 := by
  decide

/-- The last two: 12.34 is finite, and its product with 10^2 is rounded to a finite value. -/
theorem witness_FloatScaleDefault : (0x7FF0000000000000#64).extractLsb' 52 11 = 0x7FF#11 ∧ (308 : Int) ≤ 308 ∧
    (0x4028AE147AE147AE#64).extractLsb' 52 11 ≠ 0x7FF#11 ∧ floatScale 0x4028AE147AE147AE 2 = some 1234 := by
  decide +kernel

/-- A tie goes to the even significand, and half a unit above the greatest value to infinity. -/
theorem witness_Rne64IsNearestEven : rne64 (2 ^ 53 + 1) 1 = some { mant := 2 ^ 52, exp := 1 } ∧
    rne64 (2 ^ 53 + 3) 1 = some { mant := 2 ^ 52 + 2, exp := 1 } ∧
    rne64 ((2 ^ 54 - 1) * 2 ^ 970) 1 = none ∧ (rne64 ((2 ^ 54 - 1) * 2 ^ 970 - 1) 1).isSome = true := by decide +kernel

/-- A given point decides, and every other stays the default's. -/
theorem witness_BlockFloatScale : Params.legal others = true ∧
    others.floatPoints = [] ++ ⟨0x4004000000000000, 0, some 3⟩ :: [] ∧
    (∀ x ∈ others.floatPoints, ¬(x.fvalue = 0x4028AE147AE147AE ∧ x.precision = 2)) := by decide

/-- The ends of the range, and the first values past them. -/
theorem witness_SignedPorts : 1 ≤ Params.defaults.intWidth ∧ Params.toWidth Params.defaults (-2 ^ 31) = -2 ^ 31 ∧
    Params.toWidth Params.defaults (2 ^ 31 - 1) = 2 ^ 31 - 1 ∧ Params.toWidth Params.defaults (2 ^ 31) = -2 ^ 31 := by decide

theorem witness_ParametersAreFixed : nextOf (step State.reset) = some State.reset := by decide

theorem witness_EncodingIgnoresOldBuffer : (Instr.int 3 (-12) (-1)).displayBright ≠ none ∧ (idleAt 4).busy = false ∧
    after (.int 3 (-12) (-1)) (idleAt 4) (·.busy) = some true ∧
    after (.int 3 (-12) (-1)) { idleAt 4 with ebuf := Vector.replicate 6 0x77 } (·.ebuf) =
      after (.int 3 (-12) (-1)) (idleAt 4) (·.ebuf) := by decide

/-- Both ends of the legal digit counts. -/
theorem witness_InitCompletes : State.reset.busy = false ∧ 1 ≤ (1#8).toNat ∧ (6#8).toNat ≤ 6 := by decide

/-- T5.10: the clamp makes two bytes enough. -/
theorem witness_RawCompletes : (idleAt 2).busy = false ∧ (idleAt 2).cfgValid = true ∧ (idleAt 2).digits ≤ 6 ∧
    min 4 (idleAt 2).digits ≤ [1#8, 2].length := by decide

/-- T5.13: a value beyond the clamp is not read. -/
theorem witness_BcdCompletes : (idleAt 4).busy = false ∧ (idleAt 4).cfgValid = true ∧ (idleAt 4).digits ≤ 6 ∧
    min 5 (idleAt 4).digits ≤ [1#8, 2, 3, 4, 99].length ∧
    ∀ v ∈ [1#8, 2, 3, 4, 99].take (min 5 (idleAt 4).digits), v.toNat ≤ 15 := by decide

/-- T5.15: only the first four codes are checked. -/
theorem witness_AsciiCompletes : (idleAt 4).busy = false ∧ (idleAt 4).cfgValid = true ∧ (idleAt 4).digits ≤ 6 ∧
    ∀ c ∈ [0x31#8, 0x32, 0x33, 0x34, 0xFF].take (idleAt 4).digits, c.toNat ≤ 127 := by decide

theorem witness_IntCompletes : (idleAt 6).busy = false ∧ (idleAt 6).cfgValid = true ∧ (idleAt 6).digits ≤ 6 := by decide

/-- T3.19, and T3.20 for a precision of 0. -/
theorem witness_FloatCompletes :
    (idleAt 4).busy = false ∧ (idleAt 4).cfgValid = true ∧ (idleAt 4).digits ≤ 6 ∧
    (-2 ^ 31 ≤ (1234 : Int) ∧ (1234 : Int) ≤ 2 ^ 31 - 1 ∧ -2 ^ 31 ≤ (7 : Int) ∧ (7 : Int) ≤ 2 ^ 31 - 1) ∧
    (Params.scaleFloat Params.defaults 0x4028AE147AE147AE (Params.toWidth Params.defaults 2) = some 1234 ∧ (2 : Int) = (if 0 < (Params.toWidth Params.defaults 2) then (Params.toWidth Params.defaults 2) else -1) ∧
      max (digitsNeeded (1234 : Int).natAbs) 3 + 0 ≤ (idleAt 4).digits) ∧
    (Params.scaleFloat Params.defaults 0x401F99999999999A (Params.toWidth Params.defaults 0) = some 7 ∧ (-1 : Int) = (if 0 < (Params.toWidth Params.defaults 0) then (Params.toWidth Params.defaults 0) else -1) ∧
      max (digitsNeeded (7 : Int).natAbs) 1 + 0 ≤ (idleAt 4).digits) := by
  refine ⟨rfl, rfl, by decide, by decide, ⟨by decide +kernel, by decide, ?_⟩, ⟨by decide +kernel, by decide, ?_⟩⟩ <;>
    simp [digitsNeeded, idleAt, State.digits]

theorem witness_OffCompletes : (idleAt 1).busy = false ∧ (idleAt 1).cfgValid = true := by decide

/-- T4.9. -/
theorem witness_DelegationToRaw : (Instr.bcd 2 [1, 2, 10] 3).displayBright = some 2 ∧ (idleAt 4).busy = false ∧
    (idleAt 4).digits ≤ 6 ∧ after (.bcd 2 [1, 2, 10] 3) (idleAt 4) (·.busy) = some true := by decide

/-- T4.15: all six digits. -/
theorem witness_TransmitLength : (Instr.int 0 5 (-1)).displayBright ≠ none ∧ (idleAt 6).digits ≤ 6 ∧
    after (.int 0 5 (-1)) (idleAt 6) (fun t => (t.busy, t.dcount)) = some (true, 6) := by decide

theorem witness_RefusedBeforeInit : (Instr.off 0).isHost = true ∧ State.reset.busy = false ∧
    State.reset.cfgValid = false := by decide

/-- T5.3, T5.4, T5.9, T5.12, T5.11, T5.14, and T5.16 for a float that is scaled, T3.33 for one that is not. -/
theorem witness_RefusalCauses :
    (idleAt 4).busy = false ∧ (idleAt 4).cfgValid = true ∧ ((0#8).toNat < 1) ∧ (6 < (7#8).toNat) ∧
    ([1#8, 2].length < min 4 (idleAt 4).digits) ∧
    ([20#8].length < min 3 (idleAt 4).digits) ∧
    (min 2 (idleAt 4).digits ≤ [1#8, 16].length ∧ ∃ v ∈ [1#8, 16].take (min 2 (idleAt 4).digits), 15 < v.toNat) ∧
    (∃ c ∈ [0x80#8].take (idleAt 4).digits, 127 < c.toNat) ∧
    (∀ v : Int, Params.scaleFloat Params.defaults 0x405EDCCCCCCCCCCD (Params.toWidth Params.defaults 2) = some v → -2 ^ 31 ≤ v → v ≤ 2 ^ 31 - 1 →
      (idleAt 4).digits < max (digitsNeeded v.natAbs) (if 0 ≤ (2 : Int) then (2 : Int).toNat + 1 else 1) +
        (if v < 0 then 1 else 0)) ∧
    Params.scaleFloat Params.defaults 0x7FF8000000000000 (Params.toWidth Params.defaults 2) = none := by
  refine ⟨rfl, rfl, by decide, by decide, by decide, by decide, ⟨by decide, 16, by decide, by decide⟩,
    ⟨0x80, by decide, by decide⟩, fun v hv _ _ => ?_, by decide⟩
  have : Params.scaleFloat Params.defaults 0x405EDCCCCCCCCCCD (Params.toWidth Params.defaults 2) = some 12345 := by decide +kernel
  rw [this] at hv
  cases hv
  simp [digitsNeeded, idleAt, State.digits]

/-- A step that refuses, and a step after it. -/
theorem witness_RefusedMarkIsSticky :
    (nextOf (step (presenting 0x07))).map (fun t => (t.trace, t.refused)) = some ([.rej 2], true) ∧
    (nextOf (step { idleAt 4 with refused := true })).map (·.refused) = some true := by decide

theorem witness_BusyStepPerformsAction : accepted.rst = false ∧ accepted.framerIn = none ∧ accepted.busy = true ∧
    accepted.actions[accepted.pc]? = some (.dio false) ∧
    ({ accepted with pc := 45 } : State).actions[45]? = some .sample := by decide

/-- Both completions: with the diagnostic still to come, and without. -/
theorem witness_CompletionSteps :
    ((ending false false).busy = true ∧ (ending false false).pc = (ending false false).actions.length ∧
      (ending false false).acc = false ∧ (ending false false).diagSent = false) ∧
    ((ending false true).pc = (ending false true).actions.length ∧ (ending false true).diagSent = true) ∧
    ((ending true false).pc = (ending true false).actions.length ∧ (ending true false).acc = true) := by decide

/-- The done step changes `result_ok` from its reset value to 1. -/
theorem witness_ResultHeldUntilCompletion : (ending true false).rst = false ∧
    (nextOf (step (ending true false))).map (fun t => (t.resultOk, t.trace)) = some (true, [.done true]) ∧
    (ending true false).resultOk = false := by decide

/-- INIT at reset. -/
theorem witness_OnlyInitWritesConfig : State.reset.rst = false ∧
    (nextOf (step { State.reset with host := [⟨0x00, { Args.zero with digitNum := 4 }⟩] })).map (·.cfgValid) = some true ∧
    State.reset.cfgValid = false := by decide

theorem witness_CommandActionCounts : raw4.displayBright ≠ none := by decide

/-- StepsRefineMicroOps, CommandRunsToCompletion, BoundedCompletion and AnswersDoNotSteer. -/
theorem witness_Accepted : accepted.Accepted raw4 :=
  ⟨rfl, rfl, rfl, rfl, rfl, rfl, rfl, rfl⟩

theorem witness_AnswersDoNotSteer : 356 ≤ accepted.actions.length := by decide +kernel

theorem witness_ResetStep : ({ accepted with rst := true } : State).rst = true := rfl

/-- Reset meets both invariants, and its step answers. -/
theorem witness_invariants_reset : State.reset.Inv ∧ State.reset.RecordInv ∧ nextOf (step State.reset) = some State.reset :=
  ⟨⟨rfl, by decide, by decide, by decide, fun _ => ⟨rfl, rfl, rfl, .inl rfl⟩, fun h => by cases h⟩,
    ⟨by decide, by decide⟩, by decide⟩

/-- A busy block meets both invariants, and its step answers. -/
theorem witness_invariants_busy : accepted.Inv ∧ accepted.RecordInv ∧ (nextOf (step accepted)).map (·.pc) = some 1 :=
  ⟨⟨rfl, by decide, by decide, by decide, fun h => (by cases h),
    fun _ => ⟨raw4, rfl, rfl, rfl, Nat.zero_le _, ⟨Lines.idle, .inl rfl, rfl⟩, by decide, by decide⟩⟩, ⟨by decide, by decide⟩, by decide⟩

theorem witness_ReceiverReadsFrame : (idleAt 4).lines = Lines.idle ∧
    (idleAt 4).dioIn = List.replicate [0xC0#8, 0x3F].length false ++ List.replicate 8 false ∧
    interpretFrame (idleAt 4).params (idleAt 4).rcv.regs [0xC0, 0x3F] =
      some { (idleAt 4).rcv.regs with disp := (Vector.replicate 6 0).setIfInBounds 0 0x3F, ptr := 1 } := by decide

theorem witness_ReceiverShowsCommand : (idleAt 4).lines = Lines.idle ∧
    [1#8, 2, 3, 4, 5, 6].length ≤ 6 ∧
    (idleAt 4).dioIn = List.replicate ([1#8, 2, 3, 4, 5, 6].length + 3) false ++ [false] ∧
    (idleAt 4).dioIn = false :: List.replicate 9 false := by decide

end Sys2Proof.Tests
end

/-! # Proofs of the family `00_scope.md`: the signed ports, the reset step and the default parameters -/

/-! ## The parameters -/

namespace Sys2Proof.Params

variable {p : Parameters} {v : Int}

theorem inWidth_iff : inWidth p v = true ↔ -2 ^ (p.intWidth - 1) ≤ v ∧ v ≤ 2 ^ (p.intWidth - 1) - 1 := by
  simp [inWidth]

/-- The modulus of the signed ports is twice the bound of their range. -/
theorem two_pow_intWidth (hw : 1 ≤ p.intWidth) : ((2 ^ p.intWidth : Nat) : Int) = 2 * 2 ^ (p.intWidth - 1) := by
  rw [Nat.cast_pow, Nat.cast_ofNat, mul_pow_sub_one (Nat.one_le_iff_ne_zero.mp hw)]

/-- On the range of a signed port the argument is read as it is (R10, R72). -/
theorem toWidth_eq_self (hw : 1 ≤ p.intWidth) (hv : inWidth p v = true) : toWidth p v = v := by
  obtain ⟨hlo, hhi⟩ := inWidth_iff.mp hv
  have hmod := two_pow_intWidth hw
  exact Int.bmod_eq_of_le (by omega) (by omega)

/-- What a signed port carries is a value of its width (D3). -/
theorem inWidth_toWidth (hw : 1 ≤ p.intWidth) (v : Int) : inWidth p (toWidth p v) = true := by
  have hmod := two_pow_intWidth hw
  have hlo : -(((2 ^ p.intWidth : Nat) : Int) / 2) ≤ toWidth p v := Int.le_bmod (Nat.two_pow_pos _)
  have hhi : toWidth p v ≤ (((2 ^ p.intWidth : Nat) : Int) - 1) / 2 := Int.bmod_le (Nat.two_pow_pos _)
  exact inWidth_iff.mpr ⟨by omega, by omega⟩

/-- A signed port only drops high bits (log 32). -/
theorem two_pow_dvd_sub_toWidth (p : Parameters) (v : Int) : (2 : Int) ^ p.intWidth ∣ v - toWidth p v := by
  exact_mod_cast Int.dvd_self_sub_bmod (x := v) (m := 2 ^ p.intWidth)

/-- FLOAT_SCALE is the default wherever no point replaces it (R170). -/
theorem scaleFloat_eq_floatScale {f : Float64} {precision : Int}
    (h : ∀ x ∈ p.floatPoints, ¬(x.fvalue = f ∧ x.precision = precision)) :
    scaleFloat p f precision = Machine.floatScale f precision := by
  rw [scaleFloat, pointAt_none h]

theorem legal_defaults : legal defaults = true := by decide

/-- The display-control bytes of a default block are `10001` and the brightness (R76). -/
theorem ctrlByte_defaults : ∀ b : BitVec 3, ctrlByte defaults b = 0b10001#5 ++ b := by decide

/-- Settles O57: the identity on the range, the range and the congruence are the three lemmas on `toWidth`. -/
theorem signedPorts : Obligations.SignedPorts := by
  intro p v hw
  obtain ⟨hlo, hhi⟩ := inWidth_iff.mp (inWidth_toWidth hw v)
  exact ⟨fun h₁ h₂ => toWidth_eq_self hw (inWidth_iff.mpr ⟨h₁, h₂⟩), hlo, hhi, two_pow_dvd_sub_toWidth p v⟩

/-- Settles O55: the fixed values are those of `defaults`, and FLOAT_SCALE is the default since no point replaces it. -/
theorem defaultParameters : Obligations.DefaultParameters :=
  ⟨legal_defaults, rfl, by decide, rfl, rfl, rfl, rfl, rfl, rfl, rfl, ctrlByte_defaults, rfl, rfl, rfl,
    fun _ _ => scaleFloat_eq_floatScale fun _ hx => absurd hx List.not_mem_nil⟩

end Sys2Proof.Params

/-! ## Reset -/

namespace Sys2Proof.Machine

/-- The step of a block under reset, whatever else it was doing (R247, R270). -/
theorem step_rst {s : State} (h : s.rst = true) : step s = .next (takeReset s) := by
  simp [step, h]

/-- Settles O49: the step is `takeReset`, whose fields are the reset values and whose only event is the reset. -/
theorem resetStep : Obligations.ResetStep := by
  intro s h
  exact ⟨takeReset s, step_rst h, rfl, rfl, rfl, rfl, rfl, rfl, rfl, rfl⟩

end Sys2Proof.Machine

/-! # Proofs of the family `10_state.md`: the invariant, the record of the running command, and the busy step -/

/-! ## What each kind of step leaves unchanged -/

namespace Sys2Proof.Machine

variable {s t : State} {i : Instr} {c : Code} {a : Action} {l : Lines}

@[simp] theorem State.advance_pc : (s.advance a).pc = s.pc + 1 := rfl
@[simp] theorem State.advance_params : (s.advance a).params = s.params := perform_params a s
@[simp] theorem State.advance_cfgValid : (s.advance a).cfgValid = s.cfgValid := perform_cfgValid a s
@[simp] theorem State.advance_cfgDigitNum : (s.advance a).cfgDigitNum = s.cfgDigitNum := perform_cfgDigitNum a s
@[simp] theorem State.advance_lines : (s.advance a).lines = lineEffect a s.lines := perform_lines a s
@[simp] theorem State.advance_busy : (s.advance a).busy = s.busy := perform_busy a s
@[simp] theorem State.advance_cur : (s.advance a).cur = s.cur := perform_cur a s
@[simp] theorem State.advance_diagSent : (s.advance a).diagSent = s.diagSent := perform_diagSent a s
@[simp] theorem State.advance_resultOk : (s.advance a).resultOk = s.resultOk := perform_resultOk a s
@[simp] theorem State.advance_ebuf : (s.advance a).ebuf = s.ebuf := perform_ebuf a s
@[simp] theorem State.advance_dbuf : (s.advance a).dbuf = s.dbuf := perform_dbuf a s
@[simp] theorem State.advance_dcount : (s.advance a).dcount = s.dcount := perform_dcount a s
@[simp] theorem State.advance_refused : (s.advance a).refused = s.refused := perform_refused a s
@[simp] theorem State.advance_rst : (s.advance a).rst = s.rst := perform_rst a s
@[simp] theorem State.advance_host : (s.advance a).host = s.host := perform_host a s
@[simp] theorem State.advance_framerIn : (s.advance a).framerIn = s.framerIn := perform_framerIn a s

@[simp] theorem State.advance_actions : (s.advance a).actions = s.actions := by apply actions_congr <;> simp

/-- Moving on to the next action writes `pc`, and beside it only what the action itself writes (R28, R81). -/
theorem State.advance_sameBeside : State.SameBeside s { s.advance a with pc := s.pc } := by
  constructor <;> simp

/-- The three steps of a busy block: the action at `pc`, the DIAG of a failed command, and done (R28, R31). -/
theorem busyStep_outcomes (s : State) :
    (∃ a, s.actions[s.pc]? = some a ∧ busyStep s = s.advance a) ∨
    (s.actions.length ≤ s.pc ∧ s.acc = false ∧ s.diagSent = false ∧
      busyStep s = { s with trace := .diag Config.diagText :: s.trace, diagSent := true }) ∨
    (s.actions.length ≤ s.pc ∧ busyStep s = s.finish) := by
  rcases busyStep_cases s with hact | ⟨hpc, hstep⟩
  · exact .inl hact
  · rw [hstep]
    rcases complete_cases s with ⟨hacc, hdiag, hc⟩ | ⟨_, hc⟩
    · exact .inr (.inl ⟨hpc, hacc, hdiag, hc⟩)
    · exact .inr (.inr ⟨hpc, hc⟩)

/-- What no step of a busy block writes; the latched command is kept or completed. -/
theorem busyStep_keeps (s : State) :
    (busyStep s).params = s.params ∧ State.SameConfig s (busyStep s) ∧ (busyStep s).host = s.host ∧
      (busyStep s).refused = s.refused ∧ ((busyStep s).cur = s.cur ∨ (busyStep s).cur = none) := by
  rcases busyStep_outcomes s with ⟨a, _, h⟩ | ⟨_, _, _, h⟩ | ⟨_, h⟩ <;> simp [h, State.SameConfig]

/-- `result_ok` is written by the done step alone, which reports it (R31). -/
theorem busyStep_resultOk (s : State) :
    (busyStep s).resultOk = s.resultOk ∨ (busyStep s).trace = .done (busyStep s).resultOk :: s.trace := by
  rcases busyStep_outcomes s with ⟨a, _, h⟩ | ⟨_, _, _, h⟩ | ⟨_, h⟩ <;> simp [h]

/-- A busy block refuses nothing (R26): its step records an action, the DIAG or done. -/
theorem busyStep_trace_ne_rej (s : State) (code : Nat) : (busyStep s).trace ≠ .rej code :: s.trace := by
  rcases busyStep_outcomes s with ⟨a, _, h⟩ | ⟨_, _, _, h⟩ | ⟨_, h⟩
  · obtain ⟨e, htrace, hact⟩ := perform_trace a s
    rw [h, show (s.advance a).trace = e :: s.trace from htrace]
    rintro ⟨⟩
    cases hact
  · simp [h]
  · simp [h]

/-- The running command does not look at the requests (R26). -/
theorem busyStep_setHost (s : State) (presented : List Request) :
    busyStep { s with host := presented } = { busyStep s with host := presented } := by
  have hact : ({ s with host := presented } : State).actions = s.actions := rfl
  simp only [busyStep, hact]
  cases s.actions[s.pc]? with
  | some a => cases a <;> rfl
  | none => simp only [complete]; split <;> rfl

theorem runActions_sameConfig (as : List Action) (s : State) : State.SameConfig s (runActions as s) :=
  ⟨runActions_cfgValid as s, runActions_cfgDigitNum as s⟩

/-- No instruction writes the parameters or `result_ok`. -/
theorem exec_keeps (h : exec i s = .next t) : t.params = s.params ∧ t.resultOk = s.resultOk := by
  rcases exec_cases h with rfl | ⟨_, rfl⟩ | ⟨_, _, _, _, _, _, rfl⟩ | ⟨_, _, rfl⟩ | ⟨_, _, _, _, rfl⟩ |
    ⟨_, _, _, _, _, _, rfl⟩ <;> simp

/-- Of all instructions only an accepted INIT writes the configuration (R21, R22, R190). -/
theorem exec_sameConfig_or_init (h : exec i s = .next t) :
    State.SameConfig s t ∨ ∃ b d, t.cur = some (.init b d) ∧ t.cfgValid = true := by
  rcases exec_cases h with rfl | ⟨_, rfl⟩ | ⟨b, d, rfl, _, _, _, rfl⟩ | ⟨_, m, rfl⟩ | ⟨_, _, _, _, rfl⟩ |
    ⟨_, _, _, _, _, _, rfl⟩
  · exact .inl ⟨rfl, rfl⟩
  · exact .inl ⟨rfl, rfl⟩
  · exact .inr ⟨b, d, rfl, rfl⟩
  · exact .inl (runActions_sameConfig (microActions m) s)
  · exact .inl ⟨rfl, rfl⟩
  · exact .inl ⟨rfl, rfl⟩

theorem runCode_keeps (h : runCode c s = .next t) : t.params = s.params ∧ t.resultOk = s.resultOk := by
  rcases runCode_cases h with ⟨_, _, hx⟩ | ⟨_, rfl⟩
  · exact exec_keeps hx
  · exact ⟨rfl, rfl⟩

theorem runCode_sameConfig_or_init (h : runCode c s = .next t) :
    State.SameConfig s t ∨ ∃ b d, t.cur = some (.init b d) ∧ t.cfgValid = true := by
  rcases runCode_cases h with ⟨_, _, hx⟩ | ⟨_, rfl⟩
  · exact exec_sameConfig_or_init hx
  · exact .inl ⟨rfl, rfl⟩

/-! ## The acceptance step of every host command -/

/-- Every host command is an acceptance step with checks and a preparation of its own (R191). -/
theorem exec_host_eq_accept (hi : i.isHost = true) (s : State) : ∃ prep, exec i s = accept i prep s := by
  cases i with
  | init | raw | bcd | ascii | int | float | off => exact ⟨_, rfl⟩
  | _ => cases hi

/-- For every host command but INIT the configuration is checked first (R244). -/
theorem exec_host_eq_accept_requireConfig (hi : i.isHost = true) (hinit : ∀ b d, i ≠ .init b d) (s : State) :
    ∃ k, exec i s = accept i (requireConfig k) s := by
  cases i with
  | init b d => exact absurd rfl (hinit b d)
  | raw | bcd | ascii | int | float | off => exact ⟨_, rfl⟩
  | _ => cases hi

theorem accept_busy (prep : State → Except RejReason State) (hb : s.busy = true) : accept i prep s = .next s := by
  simp [accept, hb]

theorem accept_unconfigured (k : State → Except RejReason State) (hb : s.busy = false) (hc : s.cfgValid = false) :
    accept i (requireConfig k) s = .next (s.refuse .notInitialised) := by
  simp [accept, requireConfig, hb, hc]

/-! ## The lines along a command's actions -/

/-- A frame of at least one byte leaves the lines idle, wherever it began: its last SENDBYTE sets CLK and the direction,
STOP the latch (R100, R107, R109). -/
theorem linesAfter_frame {bytes : List Byte} (h : bytes ≠ []) (l : Lines) :
    linesAfter (actionsOf (frameOps bytes)) l = Lines.idle := by
  obtain ⟨init, last, rfl⟩ := (List.eq_nil_or_concat bytes).resolve_left h
  simp [frameOps, microActions, linesAfter_append, linesAfter_sendByte, linesAfter_stop, Lines.idle]

/-- A command's list is empty or ends in a frame of at least one byte (R190, R193, R200). -/
theorem opsOf_nil_or_frame_last (p : Parameters) (i : Instr) (data : List Byte) :
    opsOf p i data = [] ∨ ∃ ops bytes, bytes ≠ [] ∧ opsOf p i data = ops ++ frameOps bytes := by
  have display : ∀ b, ∃ ops bytes, bytes ≠ [] ∧ displayOps p b data = ops ++ frameOps bytes :=
    fun b => ⟨_, [Params.ctrlByte p b], List.cons_ne_nil _ _, rfl⟩
  cases i with
  | raw b _ _ => exact .inr (display b)
  | bcd b _ _ => exact .inr (display b)
  | ascii b _ => exact .inr (display b)
  | int b _ _ => exact .inr (display b)
  | float b _ _ => exact .inr (display b)
  | off _ => exact .inr ⟨[], [p.ctrlOffByte], List.cons_ne_nil _ _, rfl⟩
  | _ => exact .inl rfl

/-- A command that ran to its end leaves the lines as it found them, or idle (R100). -/
theorem linesAfter_actions (s : State) (l : Lines) : linesAfter s.actions l = l ∨ linesAfter s.actions l = Lines.idle := by
  unfold State.actions State.ops
  cases s.cur with
  | none => exact .inl rfl
  | some i =>
    rcases opsOf_nil_or_frame_last s.params i s.phase2Data with h | ⟨ops, bytes, hne, h⟩
    · simp [h, linesAfter]
    · simp [h, linesAfter_append, linesAfter_frame hne]

theorem State.StartLines.after_actions (h : s.StartLines l) : s.StartLines (linesAfter s.actions l) := by
  rcases linesAfter_actions s l with hl | hl <;> rw [hl]
  · exact h
  · exact .inl rfl

/-! ## The invariant -/

/-- The invariant of a block that was just reset, with any parameters (R22, R40, R100). -/
theorem inv_of_resetValues (hf : s.framerIn = none) (hd : s.cfgDigitNum = 1) (hn : s.dcount = 0) (hb : s.busy = false)
    (hc : s.cur = none) (hpc : s.pc = 0) (hg : s.diagSent = false) (hl : s.StartLines s.lines) : s.Inv where
  noFramerWord := hf
  digitsLow := by simp [State.digits, hd]
  digitsHigh := by simp [State.digits, hd]
  dcountCap := by simp [hn]
  idle _ := ⟨hc, hpc, hg, hl⟩
  running h := by simp [hb] at h

theorem inv_reset : State.reset.Inv := inv_of_resetValues rfl rfl rfl rfl rfl rfl rfl (.inl rfl)

namespace State.Inv

theorem takeReset (h : s.Inv) : (takeReset s).Inv :=
  inv_of_resetValues h.noFramerWord rfl rfl rfl rfl rfl rfl (.inr rfl)

theorem setHost (h : s.Inv) (presented : List Request) : ({ s with host := presented } : State).Inv :=
  ⟨h.noFramerWord, h.digitsLow, h.digitsHigh, h.dcountCap, h.idle, h.running⟩

theorem refuse (h : s.Inv) (r : RejReason) : (s.refuse r).Inv :=
  ⟨h.noFramerWord, h.digitsLow, h.digitsHigh, h.dcountCap, h.idle, h.running⟩

/-- An idle block that latches a command stands at the begin of its list (R28, R191). -/
theorem latch (h : s.Inv) (hb : s.busy = false) (hi : i.isHost = true) (hc : s.cfgValid = true)
    (hlen : i.displayBright ≠ none → s.dcount.toNat ≤ s.digits) : (s.latch i).Inv where
  noFramerWord := h.noFramerWord
  digitsLow := h.digitsLow
  digitsHigh := h.digitsHigh
  dcountCap := h.dcountCap
  idle hi := by cases hi
  running _ := by
    obtain ⟨_, _, _, hlines⟩ := h.idle hb
    exact ⟨i, rfl, hi, hc, Nat.zero_le _, ⟨s.lines, hlines, rfl⟩, hlen, fun hd => by cases hd⟩

/-- INIT's writes on an idle block (R22, R190). -/
theorem installConfig (h : s.Inv) (hb : s.busy = false) {d : Byte} (hlo : 1 ≤ d.toNat) (hhi : d.toNat ≤ 6) :
    ({ s with cfgDigitNum := d.setWidth 3, cfgValid := true } : State).Inv := by
  have hd : (d.setWidth 3).toNat = d.toNat := by rw [BitVec.toNat_setWidth]; omega
  exact ⟨h.noFramerWord, hlo.trans_eq hd.symm, hd.trans_le hhi, h.dcountCap, h.idle,
    fun hbusy => by simp [hb] at hbusy⟩

/-- The buffer writes of a display command on an idle block (R33, R204). -/
theorem loadDbuf (h : s.Inv) (hb : s.busy = false) {xs : List Byte} (e : Buf) (hlen : xs.length ≤ 6) :
    (({ s with ebuf := e } : State).loadDbuf xs).Inv :=
  ⟨h.noFramerWord, h.digitsLow, h.digitsHigh, (toNat_dcount _ hlen).trans_le hlen, h.idle,
    fun hbusy => by simp [hb] at hbusy⟩

/-- One action of the running command: `pc` and the lines move on together (R28, R192), and the command is not past
its DIAG, since there is still an action to do. -/
theorem advance (h : s.Inv) (hb : s.busy = true) (ha : s.actions[s.pc]? = some a) : (s.advance a).Inv := by
  obtain ⟨i, hcur, hi, hc, _, ⟨l, hl, hlines⟩, hlen, hdiag⟩ := h.running hb
  obtain ⟨hlt, _⟩ := List.getElem?_eq_some_iff.mp ha
  have hnodiag : s.diagSent ≠ true := fun hd => hlt.ne (hdiag hd).1
  have hlines' : (s.advance a).lines = linesAfter (s.actions.take (s.pc + 1)) l := by
    simp [List.take_add_one, ha, linesAfter_append, linesAfter, ← hlines]
  refine ⟨by simp [h.noFramerWord], ?_, ?_, ?_, fun hidle => by simp [hb] at hidle, fun _ => ?_⟩
  · simpa [State.digits] using h.digitsLow
  · simpa [State.digits] using h.digitsHigh
  · simpa using h.dcountCap
  · rw [State.advance_actions]
    refine ⟨i, by simp [hcur], hi, by simp [hc], hlt, ⟨l, ?_, hlines'⟩, ?_, ?_⟩
    · simpa [State.StartLines] using hl
    · simpa [State.digits] using hlen
    · simp [hnodiag]

/-- The DIAG of a failed command (R31). -/
theorem sendDiag (h : s.Inv) (hb : s.busy = true) (hpc : s.actions.length ≤ s.pc) (hacc : s.acc = false) (e : Event) :
    ({ s with trace := e :: s.trace, diagSent := true } : State).Inv := by
  obtain ⟨i, hcur, hi, hc, hle, hl, hlen, _⟩ := h.running hb
  exact ⟨h.noFramerWord, h.digitsLow, h.digitsHigh, h.dcountCap, fun hidle => by simp [hb] at hidle,
    fun _ => ⟨i, hcur, hi, hc, hle, hl, hlen, fun _ => ⟨hle.antisymm hpc, hacc⟩⟩⟩

/-- The done step: the whole list was performed, so the lines are those a command leaves (R31, R100). -/
theorem finish (h : s.Inv) (hb : s.busy = true) (hpc : s.actions.length ≤ s.pc) : s.finish.Inv := by
  obtain ⟨_, _, _, _, _, ⟨l, hl, hlines⟩, _, _⟩ := h.running hb
  rw [List.take_of_length_le hpc] at hlines
  have hend : s.StartLines s.lines := hlines ▸ hl.after_actions
  exact ⟨h.noFramerWord, h.digitsLow, h.digitsHigh, h.dcountCap, fun _ => ⟨rfl, rfl, rfl, hend⟩,
    fun hbusy => by cases hbusy⟩

theorem busyStep (h : s.Inv) (hb : s.busy = true) : (busyStep s).Inv := by
  rcases busyStep_outcomes s with ⟨a, ha, hs⟩ | ⟨hpc, hacc, _, hs⟩ | ⟨hpc, hs⟩ <;> rw [hs]
  · exact h.advance hb ha
  · exact h.sendDiag hb hpc hacc _
  · exact h.finish hb hpc

end State.Inv

/-- What becomes of a request on an idle block: it is kept waiting, refused, or latched on a state prepared for it, which
has the invariant (R191, R243). -/
theorem runCode_host_cases {req : Request} (hs : s.Inv) (hb : s.busy = false) (h : runCode (.host req) s = .next t) :
    t = s ∨ (∃ r, t = s.refuse r) ∨ ∃ i u, t = State.latch i u ∧ i.isHost = true ∧ u.Inv ∧ u.busy = false ∧
      u.cfgValid = true ∧ (i.displayBright ≠ none → u.dcount.toNat ≤ u.digits) := by
  rcases runCode_cases h with ⟨i, hdec, hx⟩ | hr
  · have hi : i.isHost = true := isHost_of_decode hdec
    rcases exec_cases hx with rfl | hr | ⟨b, d, rfl, _, hlo, hhi, rfl⟩ | ⟨hnot, _⟩ | ⟨b, rfl, _, hc, rfl⟩ |
      ⟨xs, e, _, _, hc, hlen, rfl⟩
    · exact .inl rfl
    · exact .inr (.inl hr)
    · exact .inr (.inr ⟨_, _, rfl, hi, hs.installConfig hb hlo hhi, hb, rfl, fun hd => absurd rfl hd⟩)
    · simp [hi] at hnot
    · exact .inr (.inr ⟨_, s, rfl, hi, hs, hb, hc, fun hd => absurd rfl hd⟩)
    · have hcap : xs.length ≤ 6 := hlen.trans hs.digitsHigh
      exact .inr (.inr ⟨i, _, rfl, hi, hs.loadDbuf hb e hcap, hb, hc, fun _ => (toNat_dcount _ hcap).trans_le hlen⟩)
  · exact .inr (.inl hr)

/-- Settles O51: each outcome of a step has its lemma; a word in the framer port is excluded by the invariant itself. -/
theorem stepKeepsInvariant : Obligations.StepKeepsInvariant := by
  intro s t hs h
  rcases step_cases h with ⟨_, rfl⟩ | ⟨_, f, hf, _⟩ | ⟨_, _, hb, rfl⟩ | ⟨_, _, _, _, rfl⟩ |
    ⟨_, _, hb, req, rest, _, hrun⟩
  · exact hs.takeReset
  · simp [hs.noFramerWord] at hf
  · exact hs.busyStep hb
  · exact hs
  · have hs' := hs.setHost rest
    rcases runCode_host_cases hs' hb hrun with rfl | ⟨r, rfl⟩ | ⟨i, u, rfl, hi, hu, hub, huc, hlen⟩
    · exact hs'
    · exact hs'.refuse r
    · exact hu.latch hub hi huc hlen

/-! ## The record of the running command -/

/-- A line action leaves one event, which records it, and takes part in `acc` as that event's ACK does (R30, R106). -/
theorem perform_event (a : Action) (s : State) :
    ∃ e, (perform a s).trace = e :: s.trace ∧ actionOfEvent e = some a ∧
      (perform a s).acc = (s.acc && !isAckFailure e) := by
  cases a with
  | sample => exact ⟨_, rfl, rfl, by simp [perform_sample, isAckFailure]⟩
  | _ => exact ⟨_, rfl, rfl, (Bool.and_true _).symm⟩

/-- Before its DIAG, one more action is one more event of the command. -/
theorem commandEvents_advance {e : Event} (hd : s.diagSent = false) (he : (perform a s).trace = e :: s.trace) :
    (s.advance a).commandEvents = s.commandEvents ++ [e] := by
  simp [State.commandEvents, State.advance, hd, he]

namespace State.RecordInv

theorem of_idle (hb : s.busy = false) : s.RecordInv :=
  ⟨fun h => by simp [hb] at h, fun h => by simp [hb] at h⟩

/-- A command just latched has done nothing (R191). -/
theorem latch (i : Instr) (s : State) : (s.latch i).RecordInv :=
  ⟨fun _ => by simp [State.commandEvents], fun _ => by simp [State.commandEvents]⟩

theorem advance (h : s.RecordInv) (hb : s.busy = true) (hd : s.diagSent = false) (ha : s.actions[s.pc]? = some a) :
    (s.advance a).RecordInv := by
  obtain ⟨e, htrace, hact, hacc⟩ := perform_event a s
  have hevents := commandEvents_advance hd htrace
  constructor
  · intro _
    rw [hevents, State.advance_actions, State.advance_pc, List.take_add_one, ha]
    simp [h.actions hb, hact]
  · intro _
    rw [hevents, show (s.advance a).acc = (s.acc && !isAckFailure e) from hacc, h.acc hb]
    simp

/-- The DIAG is no event of the command's actions. -/
theorem sendDiag (h : s.RecordInv) (hd : s.diagSent = false) (e : Event) :
    ({ s with trace := e :: s.trace, diagSent := true } : State).RecordInv := by
  have hevents : ({ s with trace := e :: s.trace, diagSent := true } : State).commandEvents = s.commandEvents := by
    simp [State.commandEvents, hd]
  exact ⟨fun hb => by rw [hevents]; exact h.actions hb, fun hb => by rw [hevents]; exact h.acc hb⟩

/-- A busy step keeps the record; that an action comes before the DIAG is the invariant's (R31). -/
theorem busyStep (h : s.RecordInv) (hs : s.Inv) (hb : s.busy = true) : (busyStep s).RecordInv := by
  rcases busyStep_outcomes s with ⟨a, ha, hstep⟩ | ⟨_, _, hd, hstep⟩ | ⟨_, hstep⟩ <;> rw [hstep]
  · obtain ⟨_, _, _, _, _, _, _, hdiag⟩ := hs.running hb
    obtain ⟨hlt, _⟩ := List.getElem?_eq_some_iff.mp ha
    exact h.advance hb (Bool.eq_false_iff.mpr fun hd => hlt.ne (hdiag hd).1) ha
  · exact h.sendDiag hd _
  · exact of_idle rfl

end State.RecordInv

/-- Settles O52: a busy step adds its event and its action together, and every other outcome leaves the block idle or at
the begin of a command. -/
theorem stepKeepsRecord : Obligations.StepKeepsRecord := by
  intro s t hs hrec h
  rcases step_cases h with ⟨_, rfl⟩ | ⟨_, f, hf, _⟩ | ⟨_, _, hb, rfl⟩ | ⟨_, _, _, _, rfl⟩ |
    ⟨_, _, hb, req, rest, _, hrun⟩
  · exact .of_idle rfl
  · simp [hs.noFramerWord] at hf
  · exact hrec.busyStep hs hb
  · exact hrec
  · rcases runCode_host_cases (hs.setHost rest) hb hrun with rfl | ⟨r, rfl⟩ | ⟨i, u, rfl, _⟩
    · exact .of_idle hb
    · exact .of_idle hb
    · exact .latch i u

/-! ## What a step writes -/

/-- Settles O8: the step is the running command's, which neither reads nor writes the requests. -/
theorem busyDoesNotTake : Obligations.BusyDoesNotTake := by
  intro s hr hf hb
  obtain ⟨_, _, hhost, hrefused, hcur⟩ := busyStep_keeps s
  refine ⟨busyStep s, step_busy hr hf hb, hhost, hrefused, hcur, busyStep_trace_ne_rej s, fun presented => ?_⟩
  rw [← busyStep_setHost]
  exact step_busy hr hf hb

/-- Settles O39: the step is `advance`, and what it writes is said by the laws of `perform`. -/
theorem busyStepPerformsAction : Obligations.BusyStepPerformsAction := by
  intro s a hr hf hb ha
  have hstep : step s = .next (s.advance a) := by rw [step_busy hr hf hb, busyStep, ha]
  have hflags : if a = .sample then
      (s.advance a).ackLast = (!s.sampleLevel) ∧ (s.advance a).acc = (s.acc && !s.sampleLevel) ∧
        (s.advance a).dioIn = s.dioIn.tail ∧ (s.advance a).draws = s.draws + 1 ∧
        (s.advance a).trace = .sample s.sampleLevel :: s.trace
      else (s.advance a).ackLast = s.ackLast ∧ (s.advance a).acc = s.acc ∧ (s.advance a).dioIn = s.dioIn ∧
        (s.advance a).draws = s.draws := by
    split
    case isTrue hsample => subst hsample; exact ⟨rfl, rfl, rfl, rfl, rfl⟩
    case isFalse hother => exact perform_flags a s hother
  exact ⟨s.advance a, hstep, rfl, perform_lines a s, State.advance_actions, perform_trace a s, hflags, perform_rcv a s,
    State.advance_sameBeside⟩

/-- Settles O41: of all steps without reset only a busy one can write `result_ok`, and then it is the done step. -/
theorem resultHeldUntilCompletion : Obligations.ResultHeldUntilCompletion := by
  intro s t hr h hne
  rcases step_cases h with ⟨hr', _⟩ | ⟨_, f, _, hrun⟩ | ⟨_, _, _, rfl⟩ | ⟨_, _, _, _, rfl⟩ | ⟨_, _, _, req, rest, _, hrun⟩
  · simp [hr] at hr'
  · exact absurd ((runCode_keeps hrun).2) hne
  · exact (busyStep_resultOk s).resolve_left hne
  · exact absurd rfl hne
  · exact absurd ((runCode_keeps hrun).2) hne

/-- Settles O42: the running command keeps the configuration, and of the instructions only INIT writes it. -/
theorem onlyInitWritesConfig : Obligations.OnlyInitWritesConfig := by
  intro s t hr h hne
  rcases step_cases h with ⟨hr', _⟩ | ⟨_, f, _, hrun⟩ | ⟨_, _, _, rfl⟩ | ⟨_, _, _, _, rfl⟩ | ⟨_, _, _, req, rest, _, hrun⟩
  · simp [hr] at hr'
  · exact (runCode_sameConfig_or_init hrun).resolve_left hne
  · obtain ⟨_, hsame, _⟩ := busyStep_keeps s
    exact absurd hsame hne
  · exact absurd ⟨rfl, rfl⟩ hne
  · exact (runCode_sameConfig_or_init hrun).resolve_left hne

/-- Settles O56: reset carries the parameters over, and no other outcome of a step writes them. -/
theorem parametersAreFixed : Obligations.ParametersAreFixed := by
  intro s t h
  rcases step_cases h with ⟨_, rfl⟩ | ⟨_, f, _, hrun⟩ | ⟨_, _, _, rfl⟩ | ⟨_, _, _, _, rfl⟩ | ⟨_, _, _, req, rest, _, hrun⟩
  · rfl
  · exact (runCode_keeps hrun).1
  · exact (busyStep_keeps s).1
  · rfl
  · exact (runCode_keeps hrun).1

/-! ## Idle and busy blocks, refusal before INIT, completion, reset -/

/-- Settles O7. -/
theorem idleStays : Obligations.IdleStays := by
  intro s ⟨hr, hf, hb⟩ hhost
  simp [step, hr, hf, hb, hhost]

/-- Settles O9: every host command is an acceptance step, which a busy block lets wait. -/
theorem hostCommandWaitsWhileBusy : Obligations.HostCommandWaitsWhileBusy := by
  intro i s hi hb
  obtain ⟨prep, hexec⟩ := exec_host_eq_accept hi s
  rw [hexec, accept_busy prep hb]

/-- Settles O36: every host command but INIT checks the configuration first. -/
theorem refusedBeforeInit : Obligations.RefusedBeforeInit := by
  intro i s hi hinit hb hc
  obtain ⟨k, hexec⟩ := exec_host_eq_accept_requireConfig hi hinit s
  rw [hexec, accept_unconfigured k hb hc]
  rfl

/-- Settles O40: at the end of the list the step is `complete`, which sends the DIAG in the one case and is `finish` in
the other. -/
theorem completionSteps : Obligations.CompletionSteps := by
  intro s hr hf hb hpc
  rw [step_complete hr hf hb hpc.ge]
  rcases complete_cases s with ⟨hacc, hdiag, hc⟩ | ⟨hdone, hc⟩ <;> rw [hc]
  · rw [if_pos ⟨hacc, hdiag⟩]
  · rw [if_neg fun h => by simp [h] at hdone]
    rfl

/-- Settles O48. -/
theorem resetValues : Obligations.ResetValues := ⟨rfl, rfl, rfl, rfl, rfl, rfl, rfl⟩

/-- Settles O50: the values of reset give the invariant, and an idle block has no command whose record could be wrong. -/
theorem invariantsAtReset : Obligations.InvariantsAtReset := ⟨inv_reset, .of_idle rfl⟩

end Sys2Proof.Machine

/-! # Proofs of the family `20_memory.md`: the segment tables, the steps of a command, and the reference receiver -/

/-! ## The segment tables -/

namespace Sys2Proof.Params

variable {p : Parameters} {u v c d : Nat}

/-- On the values it is applied to, SEG_HEX reads its table (R53, R141). -/
theorem segHex_eq_getElem (p : Parameters) (hv : v < 16) : segHex p v = p.segHexTable[v] := by
  simp [segHex, List.getD_eq_getElem?_getD, hv]

theorem segHex_mem (p : Parameters) (hv : v < 16) : segHex p v ∈ p.segHexTable.toList := by
  simp [segHex_eq_getElem p hv]

theorem segHex_injective (hnodup : p.segHexTable.toList.Nodup) (hu : u < 16) (hv : v < 16)
    (h : segHex p u = segHex p v) : u = v := by
  rw [segHex_eq_getElem p hu, segHex_eq_getElem p hv] at h
  exact (hnodup.getElem_inj_iff (hi := by simpa using hu) (hj := by simpa using hv)).mp (by simpa using h)

/-- Settles O20: each property is one of `legal`'s demands on the table, whose entries `segHex` reads. -/
theorem segHexProperties : Obligations.SegHexProperties := by
  intro p hp
  obtain ⟨hentry, hnodup, _⟩ := legal_tables hp
  refine ⟨fun v hv => ?_, fun v hv => ⟨?_, fun u hu => segHex_injective hnodup hu hv⟩, fun v hv => ?_⟩ <;>
    obtain ⟨hpoint, hblank, hminus⟩ := hentry _ (segHex_mem p hv)
  · exact hpoint
  · exact hblank
  · exact hminus

/-! SEG_ASCII, one lemma per row of R54. -/

theorem segAscii_digit (p : Parameters) (hd : d < 10) : segAscii p (0x30 + d) = p.segAsciiDigits[d] := by
  rw [segAscii, if_pos (by omega)]
  simp [List.getD_eq_getElem?_getD, hd]

theorem segAscii_upper (p : Parameters) (hd : d < 6) : segAscii p (0x41 + d) = p.segAsciiLetters[d] := by
  rw [segAscii, if_neg (by omega), if_pos (by omega)]
  simp [List.getD_eq_getElem?_getD, hd]

theorem segAscii_lower (p : Parameters) (hd : d < 6) : segAscii p (0x61 + d) = p.segAsciiLetters[d] := by
  rw [segAscii, if_neg (by omega), if_neg (by omega), if_pos (by omega)]
  simp [List.getD_eq_getElem?_getD, hd]

theorem segAscii_point (p : Parameters) : segAscii p 0x2E = p.segAsciiPoint := rfl

theorem segAscii_ne_zero_of_key (hp : legal p = true)
    (hc : (0x30 ≤ c ∧ c ≤ 0x39) ∨ (0x41 ≤ c ∧ c ≤ 0x46) ∨ (0x61 ≤ c ∧ c ≤ 0x66) ∨ c = 0x2E) : segAscii p c ≠ 0 := by
  obtain ⟨_, _, hdigits, hletters, hpoint⟩ := legal_tables hp
  rcases hc with ⟨hlo, _⟩ | ⟨hlo, _⟩ | ⟨hlo, _⟩ | rfl
  · obtain ⟨d, rfl⟩ := Nat.exists_eq_add_of_le hlo
    rw [segAscii_digit p (by omega)]
    exact hdigits _ (by simp)
  · obtain ⟨d, rfl⟩ := Nat.exists_eq_add_of_le hlo
    rw [segAscii_upper p (by omega)]
    exact hletters _ (by simp)
  · obtain ⟨d, rfl⟩ := Nat.exists_eq_add_of_le hlo
    rw [segAscii_lower p (by omega)]
    exact hletters _ (by simp)
  · exact hpoint

theorem segAscii_eq_zero_of_not_key (p : Parameters)
    (hc : ¬((0x30 ≤ c ∧ c ≤ 0x39) ∨ (0x41 ≤ c ∧ c ≤ 0x46) ∨ (0x61 ≤ c ∧ c ≤ 0x66) ∨ c = 0x2E)) : segAscii p c = 0 := by
  rw [segAscii, if_neg (by tauto), if_neg (by tauto), if_neg (by tauto), if_neg (by tauto), segBlank]

/-- Settles O21: the rows are the lemmas above; by default the two ASCII tables are those of SEG_HEX. -/
theorem segAsciiRows : Obligations.SegAsciiRows := by
  refine ⟨by decide, by decide, segAscii_point defaults, fun p => ⟨fun d hd => ?_, fun c _ => ?_⟩⟩
  · rw [segAscii_upper p hd, segAscii_lower p hd]
  · split
    case isTrue hkey => exact fun hp => segAscii_ne_zero_of_key hp hkey
    case isFalse hkey => exact segAscii_eq_zero_of_not_key p hkey

end Sys2Proof.Params

/-! ## The steps of a command -/

namespace Sys2Proof.Machine

/-- Settles O44: the steps up to the end of the list perform the list, as do the meanings of the micro-operations. -/
theorem stepsRefineMicroOps : Obligations.StepsRefineMicroOps := by
  intro s i hs
  refine ⟨_, execMicroOps_eq s.ops s, ?_⟩
  rw [run_busy s.actions.length s hs.notReset hs.noFramerWord hs.busy (by simp [hs.pc])]
  simp [hs.pc, State.actions]

/-! ## The reference receiver -/

variable {s : State} {r : Receiver} {p : Parameters} {regs regs₀ : RxRegs} {b c : Byte} {bytes : List Byte}
  {later : List Level}

/-! ### The receiver's side of the framer's action lists -/

/-- START on idle lines opens a frame (R61, R101). -/
theorem runActions_start_rcv (hs : s.lines = Lines.idle) : (runActions startActions s).rcv = s.rcv.startCondition := by
  simp [startActions, runActions, perform_rcv, receiverEffect, hs, Lines.idle]

/-- One bit of SENDBYTE is one rising edge with DIO at that bit, wherever the lines were (R103). -/
theorem runActions_bit_rcv (v : Level) (s : State) : (runActions (bitActions v) s).rcv = s.rcv.risingEdge v := by
  simp [bitActions, runActions, perform_rcv, receiverEffect, lineEffect]

theorem runActions_bits_rcv (vs : List Level) (s : State) :
    (runActions (vs.flatMap bitActions) s).rcv = vs.foldl (fun r v => r.risingEdge v) s.rcv := by
  induction vs generalizing s with
  | nil => rfl
  | cons v vs ih => simp [runActions_append, ih, runActions_bit_rcv]

/-- Only SAMPLE takes an answer of the receiver (R12, R106). -/
theorem perform_receiverLevel {a : Action} (ha : a ≠ .sample) (s : State) :
    (perform a s).receiverLevel = s.receiverLevel := by
  obtain ⟨_, _, hdio, hdraws⟩ := perform_flags a s ha
  simp [State.receiverLevel, hdio, hdraws]

/-- The ACK slot: the receiver answers, then sees the ninth edge (R104, R105). -/
theorem runActions_ack_rcv (s : State) :
    (runActions ackActions s).rcv = (s.rcv.answer s.receiverLevel).risingEdge s.lines.dioQ := by
  simp [ackActions, runActions, perform_rcv, perform_receiverLevel, receiverEffect, lineEffect, State.sampleLevel,
    Lines.dioLevel]

/-- STOP shows the receiver one more edge, a bit of no byte, before the stop condition (R109). -/
theorem runActions_stop_rcv (hmode : s.lines.dioMode = .out) :
    (runActions stopActions s).rcv = (s.rcv.risingEdge false).stopCondition s.params := by
  simp [stopActions, runActions, perform_rcv, receiverEffect, lineEffect, hmode]

/-- An action list takes one of the given levels for each of its SAMPLEs (R12, R106). -/
theorem runActions_dioIn (as : List Action) (s : State) :
    (runActions as s).dioIn = s.dioIn.drop (sampleCount as) := by
  induction as generalizing s with
  | nil => rfl
  | cons a as ih =>
    by_cases ha : a = .sample
    · subst ha
      have hdio : (perform .sample s).dioIn = s.dioIn.tail := rfl
      simp [runActions, ih, hdio, sampleCount]
    · obtain ⟨_, _, hdio, _⟩ := perform_flags a s ha
      simp [runActions, ih, hdio, sampleCount, ha]

/-! ### A frame whose bytes are all acknowledged -/

/-- The receiver `r` between two bytes of a frame: since its start condition it took `bytes`, and acknowledged them. -/
def Receiver.holding (bytes : List Byte) (r : Receiver) : Receiver := { r.startCondition with frame := bytes }

/-- A byte is put together again from its bits, the k-th shifted to its place (R56). -/
theorem foldl_or_bitsOf (b : Byte) :
    (bitsOf b).zipIdx.foldl (fun x v => x ||| (BitVec.ofBool v.1).setWidth 8 <<< v.2) 0 = b := by
  revert b; decide

/-- Eight rising edges take in a byte, bit 0 first (R56, R103). -/
theorem Receiver.foldl_risingEdge_holding (b : Byte) (bytes : List Byte) (r : Receiver) :
    (bitsOf b).foldl (fun r v => r.risingEdge v) (r.holding bytes) =
      { r.holding bytes with nbits := 8, shift := b } := by
  simpa [bitsOf, List.zipIdx, Receiver.risingEdge, Receiver.holding, Receiver.startCondition, Receiver.noFrame]
    using foldl_or_bitsOf b

/-- The ninth edge, after a low answer, ends the byte (R104, R105). -/
theorem Receiver.risingEdge_answer_low (v : Level) (b : Byte) (bytes : List Byte) (r : Receiver) :
    (Receiver.answer false { r.holding bytes with nbits := 8, shift := b }).risingEdge v = r.holding (bytes ++ [b]) := by
  simp [Receiver.risingEdge, Receiver.answer, Receiver.holding, Receiver.startCondition, Receiver.noFrame]

/-- The stop condition gives the frame the effect R64 reads in it; STOP's own edge before it is lost. -/
theorem Receiver.stopCondition_holding_regs (h : interpretFrame p r.regs bytes = some regs) (v : Level) :
    (((r.holding bytes).risingEdge v).stopCondition p).regs = regs := by
  simp [Receiver.risingEdge, Receiver.stopCondition, Receiver.holding, Receiver.startCondition, Receiver.noFrame, h]

/-- SENDBYTE with a low ACK adds its byte to the frame (R56, R103-R105). -/
theorem runActions_sendByte_rcv (hrcv : s.rcv = r.holding bytes) (hdio : s.dioIn = false :: later) :
    (runActions (sendByteActions b) s).rcv = r.holding (bytes ++ [b]) := by
  have hsample : Action.sample ∉ (bitsOf b).flatMap bitActions := by simp [bitsOf, bitActions]
  obtain ⟨_, _, hdio', _⟩ := runActions_flags _ s hsample
  have hlevel : (runActions ((bitsOf b).flatMap bitActions) s).receiverLevel = false := by
    simp [State.receiverLevel, hdio', hdio]
  rw [sendByteActions, runActions_append, runActions_ack_rcv, hlevel, runActions_bits_rcv, hrcv,
    Receiver.foldl_risingEdge_holding, Receiver.risingEdge_answer_low]

/-- The bytes of a frame reach the receiver one after the other while their ACKs are low. -/
theorem runActions_sendBytes_rcv (bytes sent : List Byte) (hrcv : s.rcv = r.holding sent)
    (hdio : s.dioIn = List.replicate bytes.length false ++ later) :
    (runActions (actionsOf (bytes.map .sendByte)) s).rcv = r.holding (sent ++ bytes) := by
  induction bytes generalizing s sent with
  | nil => simpa [runActions] using hrcv
  | cons b bytes ih =>
    rw [List.length_cons, List.replicate_succ, List.cons_append] at hdio
    have hdio' : (runActions (sendByteActions b) s).dioIn = List.replicate bytes.length false ++ later := by
      rw [runActions_dioIn, hdio]; rfl
    rw [List.map_cons, actionsOf_cons, runActions_append, microActions,
      ih (sent ++ [b]) (runActions_sendByte_rcv hrcv hdio) hdio', List.append_assoc, List.singleton_append]

/-- SENDBYTE hands DIO back to the block (R107). -/
theorem linesAfter_sendBytes_dioMode (bytes : List Byte) {l : Lines} (hl : l.dioMode = .out) :
    (linesAfter (actionsOf (bytes.map .sendByte)) l).dioMode = .out := by
  induction bytes generalizing l with
  | nil => exact hl
  | cons b bytes ih => simp [linesAfter_append, microActions, ih, linesAfter_sendByte]

theorem sampleCount_sendByte (b : Byte) : sampleCount (sendByteActions b) = 1 := rfl

/-- A frame takes one answer for each of its bytes (R112). -/
theorem sampleCount_frame (bytes : List Byte) : sampleCount (actionsOf (frameOps bytes)) = bytes.length := by
  have hbytes : sampleCount (actionsOf (bytes.map .sendByte)) = bytes.length := by
    induction bytes with
    | nil => rfl
    | cons b bytes ih => simp [microActions, sampleCount_sendByte, ih, Nat.add_comm]
  have hstart : sampleCount startActions = 0 := rfl
  have hstop : sampleCount stopActions = 0 := rfl
  simp [frameOps, microActions, hbytes, hstart, hstop]

theorem ne_nil_of_interpretFrame (h : interpretFrame p regs₀ bytes = some regs) : bytes ≠ [] := by
  rintro rfl
  cases h

/-- A frame that R64 reads, sent on idle lines with low ACKs, has that effect on the receiver's registers, and leaves the
lines idle and the later answers for the next frame (R61, R64, R100). -/
theorem runActions_frame (hlines : s.lines = Lines.idle) (hdio : s.dioIn = List.replicate bytes.length false ++ later)
    (h : interpretFrame s.params s.rcv.regs bytes = some regs) :
    (runActions (actionsOf (frameOps bytes)) s).rcv.regs = regs ∧
      (runActions (actionsOf (frameOps bytes)) s).lines = Lines.idle ∧
      (runActions (actionsOf (frameOps bytes)) s).dioIn = later := by
  refine ⟨?_, ?_, ?_⟩
  · have hdio' : (runActions startActions s).dioIn = List.replicate bytes.length false ++ later := hdio
    have hrcv := runActions_sendBytes_rcv bytes [] (runActions_start_rcv hlines) hdio'
    have hmode : (runActions (actionsOf (bytes.map .sendByte)) (runActions startActions s)).lines.dioMode = .out := by
      simp [linesAfter_start, hlines, Lines.idle, linesAfter_sendBytes_dioMode]
    simp only [frameOps, List.cons_append, actionsOf_cons, actionsOf_append, actionsOf_nil, List.append_nil,
      runActions_append, microActions, runActions_stop_rcv hmode, hrcv, runActions_params, List.nil_append]
    exact Receiver.stopCondition_holding_regs h false
  · rw [runActions_lines, linesAfter_frame (ne_nil_of_interpretFrame h)]
  · simp [runActions_dioIn, hdio, sampleCount_frame]

/-- Settles O53: the meanings of the micro-operations are the frame's actions, whose effect is `runActions_frame`. -/
theorem receiverReadsFrame : Obligations.ReceiverReadsFrame := by
  intro bytes s later regs hlines hdio h
  obtain ⟨hregs, hidle, _⟩ := runActions_frame hlines hdio h
  exact ⟨_, execMicroOps_eq _ s, hregs, hidle⟩

/-! ### The frames of a command -/

/-- DATA_CMD alone sets the mode (R64, R77). -/
theorem interpretFrame_cmdData (hp : Params.legal p = true) (regs : RxRegs) :
    interpretFrame p regs [p.cmdData] = some { regs with mode := .writeAutoIncrement } := by
  obtain ⟨hbase, _⟩ := Params.legal_bytes hp
  have hne : p.cmdData ≠ Params.cmdAddr0 := fun h => absurd (h ▸ hbase) (by decide)
  simp [interpretFrame, hne]

/-- The address byte and the data after it fill the digits from address 0 (R64, R78). -/
theorem interpretFrame_data (p : Parameters) (regs : RxRegs) (hlen : bytes.length ≤ 6) :
    interpretFrame p regs (Params.cmdAddr0 :: bytes) =
      some { regs with disp := writeFrom regs.disp 0 bytes, ptr := bytes.length } := by
  simp [interpretFrame, hlen]

/-- A byte with the display-control base is no other command byte of a legal block (R76-R78). -/
theorem interpretFrame_control (hp : Params.legal p = true) (regs : RxRegs) (hc : c.extractLsb' 6 2 = 0b10#2) :
    interpretFrame p regs [c] = some { regs with ctrl := c } := by
  obtain ⟨hbase, _⟩ := Params.legal_bytes hp
  have hne₁ : c ≠ Params.cmdAddr0 := fun h => absurd (h ▸ hc) (by decide)
  have hne₂ : c ≠ p.cmdData := fun h => absurd (hbase.symm.trans (h ▸ hc)) (by decide)
  simp [interpretFrame, hne₁, hne₂, hc]

/-- The power bit and the brightness leave the display-control base as it is (R76). -/
theorem ctrlByte_base (hp : Params.legal p = true) (bright : BitVec 3) :
    (Params.ctrlByte p bright).extractLsb' 6 2 = 0b10#2 := by
  obtain ⟨_, _, hon, _⟩ := Params.legal_bytes hp
  have htop : ∀ x : Byte, x &&& 0xC7 = 0 → x.extractLsb' 6 2 = 0 := by decide
  have hbright : (bright.setWidth 8).extractLsb' 6 2 = 0 := by revert bright; decide
  simp only [Params.ctrlByte, BitVec.extractLsb'_or, htop _ hon, hbright]
  decide

/-- The three frames of DISPLAY with low ACKs leave the mode, the data and the control byte in the receiver's registers,
one after the other (R64, R193). -/
theorem runActions_display_regs (bright : BitVec 3) (data : List Byte) (hp : Params.legal s.params = true)
    (hlines : s.lines = Lines.idle) (hlen : data.length ≤ 6)
    (hdio : s.dioIn = List.replicate (data.length + 3) false ++ later) :
    (runActions (actionsOf (displayOps s.params bright data)) s).rcv.regs =
      { mode := .writeAutoIncrement, disp := writeFrom s.rcv.regs.disp 0 data, ptr := data.length,
        ctrl := Params.ctrlByte s.params bright } := by
  have hsplit : List.replicate (data.length + 3) false ++ later =
      List.replicate 1 false ++ (List.replicate (data.length + 1) false ++ (List.replicate 1 false ++ later)) := by
    rw [← List.append_assoc, ← List.append_assoc, List.replicate_append_replicate, List.replicate_append_replicate]
    congr 2; omega
  obtain ⟨hregs₁, hlines₁, hdio₁⟩ :=
    runActions_frame (bytes := [s.params.cmdData]) hlines (hdio.trans hsplit) (interpretFrame_cmdData hp _)
  obtain ⟨hregs₂, hlines₂, hdio₂⟩ :=
    runActions_frame (bytes := Params.cmdAddr0 :: data) hlines₁ hdio₁ (interpretFrame_data _ _ hlen)
  obtain ⟨hregs₃, _⟩ :=
    runActions_frame (bytes := [Params.ctrlByte s.params bright]) hlines₂ hdio₂
      (interpretFrame_control (by simpa using hp) _ (ctrlByte_base hp bright))
  simp only [displayOps, actionsOf_append, runActions_append, hregs₃, hregs₂, hregs₁]

/-- Settles O54: the registers after the frames of a display command, read position by position, and after OFF's frame. -/
theorem receiverShowsCommand : Obligations.ReceiverShowsCommand := by
  refine ⟨fun s b data later hp hlines hlen hdio => ?_, fun s later hp hlines hdio => ?_⟩
  · have hregs := runActions_display_regs b data hp hlines hlen hdio
    refine ⟨_, execMicroOps_eq _ s, by rw [hregs], by rw [hregs], fun k => ?_⟩
    rw [hregs]
    simpa using writeFrom_get data s.rcv.regs.disp 0 k k.isLt
  · obtain ⟨_, _, _, hoff, _⟩ := Params.legal_bytes hp
    obtain ⟨hregs, _⟩ :=
      runActions_frame (bytes := [s.params.ctrlOffByte]) hlines hdio (interpretFrame_control hp s.rcv.regs hoff)
    exact ⟨_, execMicroOps_eq _ s, by rw [hregs], by rw [hregs]⟩

end Sys2Proof.Machine

/-! # Proofs of the family `30_encoding.md`: decoder and encoder, the assembler, what a step runs, wire bytes and modes -/

/-! ## The host command words -/

namespace Sys2Proof

variable {p : Parameters} {i : Instr} {r : Request} {f : FramerWord} {b : Byte}

/-- The fields beside each other are the arithmetic form of R83. -/
theorem hostWord_eq_shift_or : ∀ b op : BitVec 3, hostWord b op = b.setWidth 8 <<< 3 ||| op.setWidth 8 := by decide

/-- The decoder reads from a host command's word and arguments the command they were made of, whatever the command bytes
of the block are (R70-R72). -/
theorem exists_encode_host (hi : i.isHost = true) :
    ∃ r, encode p i = .host r ∧ decode p (.host r) = .ok i ∧ ∃ b op : BitVec 3, r.cmdWord = hostWord b op := by
  cases i with
  | init | raw | bcd | ascii | int | float | off => exact ⟨_, rfl, by simp [decode, decodeHost], _, _, rfl⟩
  | _ => cases hi

theorem decode_of_reservedBits (hrsv : rsvField r.cmdWord ≠ 0) : decode p (.host r) = .error .reservedBits := by
  rw [decode, decodeHost, if_pos hrsv]

theorem decode_of_reservedOpcode (hrsv : rsvField r.cmdWord = 0) (hop : opField r.cmdWord = 7) :
    decode p (.host r) = .error .reservedOpcode := by
  simp [decode, decodeHost, hrsv, hop]

/-- What a host word decodes to encodes to a word with the same two fields and reserved bits zero (R70, R71). -/
theorem encode_of_decode_host (h : decode p (.host r) = .ok i) : rsvField r.cmdWord = 0 ∧
    ∃ r', encode p i = .host r' ∧ r'.cmdWord = hostWord (brightField r.cmdWord) (opField r.cmdWord) := by
  simp only [decode, decodeHost] at h
  split at h
  · cases h
  rename_i hrsv
  refine ⟨not_not.mp hrsv, ?_⟩
  iterate 7
    split at h
    · rename_i hop
      cases h
      exact ⟨_, rfl, by rw [hop]⟩
  cases h

/-- A host word that is not reserved is a command (R71, R74). -/
theorem exists_decode_host (hrsv : rsvField r.cmdWord = 0) (hop : opField r.cmdWord ≠ 7) :
    ∃ i, decode p (.host r) = .ok i := by
  have hops : ∀ op : BitVec 3, op ≠ 7 → op = 0 ∨ op = 1 ∨ op = 2 ∨ op = 3 ∨ op = 4 ∨ op = 5 ∨ op = 6 := by decide
  rcases hops _ hop with h | h | h | h | h | h | h <;> exact ⟨_, by simp only [decode, decodeHost, hrsv, h]; rfl⟩

/-! ## The micro-operation words -/

/-- A micro-operation word is made of its two fields (R75). -/
theorem kindField_append_byteField (w : BitVec 10) : kindField w ++ byteField w = w :=
  (BitVec.extractLsb'_append_extractLsb'_eq_extractLsb' rfl).trans BitVec.extractLsb'_eq_self

theorem decodeMicro_encodeMicro (m : MicroOp) : decodeMicro (encodeMicro m) = .ok m := by
  cases m with
  | start => rfl
  | sendByte b => rw [decodeMicro, if_pos (kindField_sendByte b), byteField_sendByte]
  | stop => rfl

/-- Each micro-operation has one word (R75). -/
theorem encodeMicro_of_decodeMicro {w : BitVec 10} {m : MicroOp} (h : decodeMicro w = .ok m) : encodeMicro m = w := by
  have hstop : ∀ k : BitVec 2, k ≠ 1 → k ≠ 3 → k ≠ 0 → k = 2 := by decide
  rw [← kindField_append_byteField w]
  unfold decodeMicro at h
  split at h
  · cases h; rw [‹kindField w = 1›]; rfl
  split at h
  · cases h
  split at h
  · cases h
  rename_i hk₁ hk₃ hbyte
  rw [not_not.mp hbyte]
  split at h
  · cases h; rw [‹kindField w = 0›]; rfl
  · cases h; rw [hstop _ hk₁ hk₃ ‹_›]; rfl

theorem encode_toInstr (p : Parameters) (m : MicroOp) : encode p m.toInstr = .framer (.micro (encodeMicro m)) := by
  cases m <;> rfl

/-! ## The wire command bytes -/

/-- Bytes with different bases, bits 7:6, are different command bytes (R76-R78). -/
theorem ne_of_base {x y : Byte} {m n : BitVec 2} (hx : x.extractLsb' 6 2 = m) (hy : y.extractLsb' 6 2 = n)
    (h : m ≠ n) : x ≠ y := by
  rintro rfl
  exact h (hx.symm.trans hy)

/-- The brightness is bits 2:0 of a display-control byte, beside the base and the power bit (R76). -/
theorem ctrlByte_bright (hon : p.ctrlOn &&& 0xC7 = 0) (bright : BitVec 3) :
    (Params.ctrlByte p bright).extractLsb' 0 3 = bright := by
  have hlow : ∀ x : Byte, x &&& 0xC7 = 0 → x.extractLsb' 0 3 = 0 := by decide
  have hbright : (bright.setWidth 8).extractLsb' 0 3 = bright := by revert bright; decide
  rw [Params.ctrlByte, BitVec.extractLsb'_or, BitVec.extractLsb'_or, hlow _ hon, hbright]
  exact BitVec.zero_or

/-- Without its brightness a display-control byte is the base and the power bit (R76). -/
theorem ctrlByte_and_power (hon : p.ctrlOn &&& 0xC7 = 0) (bright : BitVec 3) :
    Params.ctrlByte p bright &&& 0xF8 = Params.ctrlBase ||| p.ctrlOn := by
  have hhigh : ∀ x : Byte, x &&& 0xC7 = 0 → x &&& 0xF8 = x := by decide
  have hbright : bright.setWidth 8 &&& (0xF8 : Byte) = 0 := by revert bright; decide
  rw [Params.ctrlByte, BitVec.and_or_distrib_right, BitVec.and_or_distrib_right, hhigh _ hon, hbright]
  exact BitVec.or_zero

/-- The power bit tells the two kinds of display-control byte apart (R76). -/
theorem ctrlByte_ne_ctrlOffByte (hon : p.ctrlOn ≠ 0) (hoff : p.ctrlOffByte &&& p.ctrlOn = 0) (bright : BitVec 3) :
    Params.ctrlByte p bright ≠ p.ctrlOffByte := by
  intro h
  have hpower : Params.ctrlByte p bright &&& p.ctrlOn = p.ctrlOn := by
    ext k
    simp +contextual [Params.ctrlByte]
  exact hon (hpower.symm.trans (h ▸ hoff))

theorem decodeWireCommand_cmdData (p : Parameters) : decodeWireCommand p p.cmdData = .ok .dataCmd := by
  rw [decodeWireCommand, if_pos rfl]

theorem decodeWireCommand_cmdAddr0 (hp : Params.legal p = true) :
    decodeWireCommand p Params.cmdAddr0 = .ok .addrSet0 := by
  obtain ⟨hdata, _⟩ := Params.legal_bytes hp
  rw [decodeWireCommand, if_neg (ne_of_base rfl hdata (by decide)), if_pos rfl]

theorem decodeWireCommand_ctrlOffByte (hp : Params.legal p = true) :
    decodeWireCommand p p.ctrlOffByte = .ok .dispOff := by
  obtain ⟨hdata, _, _, hoff, _⟩ := Params.legal_bytes hp
  rw [decodeWireCommand, if_neg (ne_of_base hoff hdata (by decide)), if_neg (ne_of_base hoff rfl (by decide)),
    if_pos rfl]

theorem decodeWireCommand_ctrlByte (hp : Params.legal p = true) (bright : BitVec 3) :
    decodeWireCommand p (Params.ctrlByte p bright) = .ok (.dispCtrlOn bright) := by
  obtain ⟨hdata, hne, hon, _, hoff⟩ := Params.legal_bytes hp
  have hbase := Machine.ctrlByte_base hp bright
  rw [decodeWireCommand, if_neg (ne_of_base hbase hdata (by decide)), if_neg (ne_of_base hbase rfl (by decide)),
    if_neg (ctrlByte_ne_ctrlOffByte hne hoff bright), if_pos (ctrlByte_and_power hon bright), ctrlByte_bright hon]

/-- Each wire command has one byte (R76-R78). -/
theorem encode_of_decodeWireCommand (h : decodeWireCommand p b = .ok i) : encode p i = .framer (.wire .command b) := by
  have hparts : ∀ x : Byte, x &&& 0xF8 ||| (x.extractLsb' 0 3).setWidth 8 = x := by decide
  unfold decodeWireCommand at h
  iterate 3
    split at h
    · rename_i hb
      cases h; rw [hb]; rfl
  split at h
  · rename_i hb
    cases h; rw [encode, Params.ctrlByte, ← hb, hparts]
  · cases h

/-! ## Decoder and encoder -/

/-- Settles O1: a host command by its fields, a micro-operation by its word, a wire command byte by what tells it from
the other legal command bytes. -/
theorem decodeOfEncode : Obligations.DecodeOfEncode := by
  intro p i hp
  have micro (m : MicroOp) : decode p (.framer (.micro (encodeMicro m))) = .ok m.toInstr := by
    rw [decode, decodeMicro_encodeMicro]; rfl
  cases hi : i.isHost with
  | true =>
    obtain ⟨r, hr, hdec, _⟩ := exists_encode_host (p := p) hi
    rw [hr, hdec]
  | false =>
    cases i with
    | init | raw | bcd | ascii | int | float | off => cases hi
    | start => exact micro .start
    | sendByte b => exact micro (.sendByte b)
    | stop => exact micro .stop
    | dataCmd => exact decodeWireCommand_cmdData p
    | addrSet0 => exact decodeWireCommand_cmdAddr0 hp
    | dispCtrlOn bright => exact decodeWireCommand_ctrlByte hp bright
    | dispOff => exact decodeWireCommand_ctrlOffByte hp
    | segmentData b => rfl

theorem encode_of_decode_framer (h : decode p (.framer f) = .ok i) : encode p i = .framer f := by
  cases f with
  | micro w =>
    rw [decode] at h
    cases hm : decodeMicro w with
    | error e => rw [hm] at h; cases h
    | ok m =>
      rw [hm] at h
      cases h
      rw [encode_toInstr, encodeMicro_of_decodeMicro hm]
  | wire pos b =>
    cases pos with
    | command => exact encode_of_decodeWireCommand h
    | data => cases h; rfl

/-- Settles O2: in each space the fields of a word that decodes give the word back. -/
theorem encodeOfDecode : Obligations.EncodeOfDecode := by
  intro p _
  refine ⟨fun r i h => ?_, fun f i h => encode_of_decode_framer h⟩
  obtain ⟨hrsv, r', hr', hword⟩ := encode_of_decode_host h
  exact ⟨r', hr', hword.trans (hostWord_of_fields _ hrsv)⟩

/-- Settles O3: the words of the table are concrete. -/
theorem tableWordsDecode : Obligations.TableWordsDecode := by
  unfold Obligations.TableWordsDecode
  decide

end Sys2Proof

/-! ## The assembler -/

namespace Sys2Proof.Machine

variable {p : Parameters} {i : Instr} {s : State} {c : Code}

theorem isHost_of_assembleBright {mnemonic : List Char} {b : BitVec 3} {ts : List Token}
    (h : assembleBright p mnemonic b ts = some i) : i.isHost = true := by
  unfold assembleBright at h
  iterate 4
    split at h
    · obtain ⟨_, _, rfl⟩ := Option.map_eq_some_iff.mp h
      rfl
  split at h
  · split at h
    · obtain ⟨_, _, rfl⟩ := Option.map_eq_some_iff.mp h
      rfl
    · cases h
  · cases h

/-- The assembler reads host commands only (R83). -/
theorem isHost_of_assembleLine {line : List Char} (h : assembleLine p line = some i) : i.isHost = true := by
  unfold assembleLine at h
  split at h
  · obtain ⟨_, _, rfl⟩ := Option.map_eq_some_iff.mp h
    rfl
  · cases h
    rfl
  · split at h
    · exact isHost_of_assembleBright h
    · cases h
  · cases h

/-- Settles O5: a line's command is a host command, whose request is its encoding. -/
theorem assembledWordDecodes : Obligations.AssembledWordDecodes := by
  intro p line i h
  obtain ⟨r, hr, hdec, b, op, hword⟩ := exists_encode_host (p := p) (isHost_of_assembleLine h)
  exact ⟨r, by rw [assembleRequest, h]; simp only [hr], hdec, b, op, hword.trans (hostWord_eq_shift_or b op)⟩

/-! ## What a step runs -/

/-- A ready block runs the first request, taken from its port (R82). -/
theorem step_host {r : Request} {rest : List Request} (hs : s.Ready) (h : s.host = r :: rest) :
    step s = runCode (.host r) { s with host := rest } := by
  obtain ⟨hrst, hframer, hbusy⟩ := hs
  simp [step, hrst, hframer, hbusy, h]

/-- A word in the framer port comes before everything but reset (log 10). -/
theorem step_framerWord {f : FramerWord} (hrst : s.rst = false) (h : s.framerIn = some f) :
    step s = runCode (.framer f) { s with framerIn := none } := by
  simp [step, hrst, h]

theorem runCode_ok (h : decode s.params c = .ok i) : runCode c s = exec i s := by
  simp [runCode, h]

theorem runCode_error {e : DecodeError} (h : decode s.params c = .error e) : runCode c s = onDecodeError e s := by
  simp [runCode, h]

/-- Settles O6. -/
theorem stepRunsDecoded : Obligations.StepRunsDecoded := by
  refine ⟨fun s r rest i hs hhost hdec => ?_, fun s f i hrst hframer hdec => ?_⟩
  · exact (step_host hs hhost).trans (runCode_ok hdec)
  · exact (step_framerWord hrst hframer).trans (runCode_ok hdec)

/-- Settles O4: the block refuses what the decoder calls reserved, and every other host word is a command. -/
theorem reservedHostWords : Obligations.ReservedHostWords := by
  intro s r rest hs hhost
  refine ⟨fun hrsv => ?_, fun hrsv hop => ?_, fun hrsv hop => ?_⟩
  · rw [step_host hs hhost, runCode_error (decode_of_reservedBits hrsv)]
    rfl
  · rw [step_host hs hhost, runCode_error (decode_of_reservedOpcode hrsv hop)]
    rfl
  · obtain ⟨i, hdec⟩ := exists_decode_host (p := s.params) hrsv hop
    exact ⟨i, hdec, isHost_of_decode hdec⟩

/-! ## SENDBYTE and the wire bytes -/

theorem sample_not_mem_bits (b : Byte) : Action.sample ∉ (bitsOf b).flatMap bitActions := by simp [bitsOf, bitActions]

theorem foldl_risingEdge_regs (vs : List Level) (r : Receiver) :
    (vs.foldl (fun r v => r.risingEdge v) r).regs = r.regs := by
  induction vs generalizing r with
  | nil => rfl
  | cons v vs ih => rw [List.foldl_cons, ih, risingEdge_regs]

/-- The ACK slot reads the level the receiver leaves on DIO, since the block has released the line (R104-R106). -/
theorem runActions_ack (s : State) :
    (runActions ackActions s).ackLast = (!s.receiverLevel) ∧
    (runActions ackActions s).acc = (s.acc && !s.receiverLevel) ∧
    (runActions ackActions s).trace =
      [.mode .out, .wait, .clk true, .sample s.receiverLevel, .wait, .clk false, .mode .inp] ++ s.trace ∧
    (runActions ackActions s).dioIn = s.dioIn.tail ∧ (runActions ackActions s).draws = s.draws + 1 :=
  ⟨rfl, rfl, rfl, rfl, rfl⟩

/-- SENDBYTE: the eight bits write the lines alone, and the ACK slot records the receiver's answer (R102-R107). -/
theorem runActions_sendByte (b : Byte) (s : State) :
    State.ByteSent b s.receiverLevel s (runActions (sendByteActions b) s) := by
  have hlines : (runActions (sendByteActions b) s).lines = { clkQ := true, dioMode := .out, dioQ := b.getLsbD 7 } := by
    rw [runActions_lines, linesAfter_sendByte]
  obtain ⟨_, hacc, hdioIn, hdraws⟩ := runActions_flags _ s (sample_not_mem_bits b)
  have htrace := runActions_trace _ s (sample_not_mem_bits b)
  have hrcv := runActions_bits_rcv (bitsOf b) s
  have hbeside := runActions_sameBeside (sendByteActions b) s
  rw [sendByteActions, runActions_append] at hlines hbeside ⊢
  generalize runActions ((bitsOf b).flatMap bitActions) s = t at *
  have hlevel : t.receiverLevel = s.receiverLevel := by simp [State.receiverLevel, hdioIn, hdraws]
  obtain ⟨gack, gacc, gtrace, gdioIn, gdraws⟩ := runActions_ack t
  rw [hlevel] at gack gacc gtrace
  exact {
    clkQ := by rw [hlines]
    dioMode := by rw [hlines]
    dioQ := by rw [hlines]
    ackLast := gack
    acc := by rw [gacc, hacc]
    trace := by rw [gtrace, htrace]; rfl
    dioIn := by rw [gdioIn, hdioIn]
    draws := by rw [gdraws, hdraws]
    receiver := by
      rw [runActions_ack_rcv, risingEdge_regs, Receiver.answer, hrcv]
      exact foldl_risingEdge_regs _ _
    rest := hbeside }

/-- Settles O15: each wire byte is SENDBYTE of the block's byte for it. -/
theorem wireBytesComplete : Obligations.WireBytesComplete :=
  ⟨fun s => ⟨_, rfl, runActions_sendByte _ s⟩, fun s => ⟨_, rfl, runActions_sendByte _ s⟩,
    fun _ s => ⟨_, rfl, runActions_sendByte _ s⟩, fun s => ⟨_, rfl, runActions_sendByte _ s⟩,
    fun _ s => ⟨_, rfl, runActions_sendByte _ s⟩⟩

/-! ## The direction of DIO -/

/-- The direction of DIO an action needs: SAMPLE listens, a DIO action drives (R81, R282). -/
def neededMode : Action → Option DioMode
  | .sample => some .inp
  | .dio _ => some .out
  | .clk _ => none
  | .mode _ => none
  | .wait => none
  | .diag => none

/-- Every action of the list, run from the lines `l`, stands where DIO has the direction it needs. -/
def ModesRespected (as : List Action) (l : Lines) : Prop :=
  ∀ n a m, as[n]? = some a → neededMode a = some m → (linesAfter (as.take n) l).dioMode = m

variable {a : Action} {as bs : List Action} {l : Lines}

@[simp] theorem modesRespected_nil (l : Lines) : ModesRespected [] l := by
  intro n a m h
  simp at h

@[simp] theorem modesRespected_cons :
    ModesRespected (a :: as) l ↔ (∀ m, neededMode a = some m → l.dioMode = m) ∧ ModesRespected as (lineEffect a l) := by
  constructor
  · exact fun h => ⟨fun m => h 0 a m rfl, fun n a' m ha => h (n + 1) a' m (by simpa using ha)⟩
  · rintro ⟨hhead, htail⟩ (_ | n) a' m ha
    · cases ha
      exact hhead m
    · exact htail n a' m (by simpa using ha)

theorem ModesRespected.append (has : ModesRespected as l) (hbs : ModesRespected bs (linesAfter as l)) :
    ModesRespected (as ++ bs) l := by
  induction as generalizing l with
  | nil => exact hbs
  | cons a as ih =>
    obtain ⟨hhead, htail⟩ := modesRespected_cons.mp has
    exact modesRespected_cons.mpr ⟨hhead, ih htail hbs⟩

/-- Every micro-operation that begins with DIO driven respects the directions and leaves DIO driven (R101-R109). -/
theorem modesRespected_microActions (m : MicroOp) (hl : l.dioMode = .out) :
    ModesRespected (microActions m) l ∧ (linesAfter (microActions m) l).dioMode = .out := by
  cases m with
  | start => exact ⟨by simp [microActions, startActions, neededMode, lineEffect, hl], hl⟩
  | sendByte b =>
    exact ⟨by simp [microActions, sendByteActions, bitsOf, bitActions, ackActions, neededMode, lineEffect, hl], rfl⟩
  | stop => exact ⟨by simp [microActions, stopActions, neededMode, lineEffect, hl], hl⟩

theorem modesRespected_actionsOf (ms : List MicroOp) (hl : l.dioMode = .out) : ModesRespected (actionsOf ms) l := by
  induction ms generalizing l with
  | nil => exact modesRespected_nil l
  | cons m ms ih =>
    obtain ⟨hm, hout⟩ := modesRespected_microActions m hl
    rw [actionsOf_cons]
    exact hm.append (ih hout)

/-- Settles O19: a command's list is made of micro-operations, and begins with DIO driven. -/
theorem sampleOnlyInInputMode : Obligations.SampleOnlyInInputMode := by
  intro p i data n _
  have h := modesRespected_actionsOf (l := Lines.idle) (opsOf p i data) rfl
  exact ⟨fun hn => h n _ _ hn rfl, fun v hn => h n _ _ hn rfl⟩

end Sys2Proof.Machine

/-! # Proofs of the family `40_transport.md`: the micro-operations, their counts and lines, the answers -/

/-! ## What an action and a micro-operation do -/

namespace Sys2Proof.Machine

variable {i : Instr} {b : BitVec 3} {as bs : List Action} {l : Lines}

/-- Settles O11: the laws of `perform` say both cases; `acc` takes the `ack_last` just written. -/
theorem onlySampleWritesFlags : Obligations.OnlySampleWritesFlags := by
  intro a s
  split
  case isTrue hsample =>
    subst hsample
    obtain ⟨hack, hacc, htrace⟩ := perform_sample s
    exact ⟨hack, by rw [hacc, hack], htrace⟩
  case isFalse hother =>
    obtain ⟨hack, hacc, _⟩ := perform_flags a s hother
    exact ⟨hack, hacc⟩

/-- START's only DIO action is a fall, which is no stop condition for the receiver (R61, R101). -/
theorem runActions_start_regs (s : State) : (runActions startActions s).rcv.regs = s.rcv.regs :=
  perform_regs (.dio false) s fun _ hv => .inl (Action.dio.inj hv).symm

/-- Settles O12: START has no SAMPLE, so the flags and the draw stay; the lines are `linesAfter_start`. -/
theorem startCompletes : Obligations.StartCompletes := by
  intro s
  have hsample : Action.sample ∉ startActions := by decide
  obtain ⟨hack, hacc, hdioIn, hdraws⟩ := runActions_flags _ s hsample
  exact ⟨runActions startActions s, rfl, by rw [runActions_lines, linesAfter_start], runActions_trace _ s hsample,
    hack, hacc, hdioIn, hdraws, runActions_start_regs s, runActions_sameBeside _ s⟩

/-- Settles O13: the meaning of SENDBYTE is its action list, whose effect is `runActions_sendByte`. -/
theorem sendByteCompletes : Obligations.SendByteCompletes := fun b s => ⟨_, rfl, runActions_sendByte b s⟩

/-- Settles O14: STOP has no SAMPLE, so the flags and the draw stay; the lines are `linesAfter_stop`. -/
theorem stopCompletes : Obligations.StopCompletes := by
  intro s
  have hsample : Action.sample ∉ stopActions := by decide
  obtain ⟨hack, hacc, hdioIn, hdraws⟩ := runActions_flags _ s hsample
  exact ⟨runActions stopActions s, rfl, by rw [runActions_lines, linesAfter_stop], runActions_trace _ s hsample,
    hack, hacc, hdioIn, hdraws, runActions_sameBeside _ s⟩

/-- The lines a micro-operation leaves when it began with CLK high and DIO driven (R101, R107, R109). -/
def linesLeftBy : MicroOp → Lines
  | .start => { clkQ := true, dioMode := .out, dioQ := false }
  | .sendByte b => { clkQ := true, dioMode := .out, dioQ := b.getLsbD 7 }
  | .stop => Lines.idle

theorem linesAfter_microActions (m : MicroOp) (hclk : l.clkQ = true) (hmode : l.dioMode = .out) :
    linesAfter (microActions m) l = linesLeftBy m := by
  cases m with
  | start => rw [microActions, linesAfter_start, linesLeftBy, hclk, hmode]
  | sendByte b => exact linesAfter_sendByte b l
  | stop => rw [microActions, linesAfter_stop, linesLeftBy, Lines.idle, hmode]

theorem linesLeftBy_clkQ (m : MicroOp) : (linesLeftBy m).clkQ = true := by cases m <;> rfl

theorem linesLeftBy_dioMode (m : MicroOp) : (linesLeftBy m).dioMode = .out := by cases m <;> rfl

/-! ## The counts of actions, WAITs, rising edges and SAMPLEs -/

/-- A count that adds up over the micro-operations of a list, with `c` for each SENDBYTE, over a frame (R111, R112). -/
theorem count_frame {count : List Action → Nat} {c : Nat} (hnil : count [] = 0)
    (hcons : ∀ m ms, count (actionsOf (m :: ms)) = count (microActions m) + count (actionsOf ms))
    (hbyte : ∀ b, count (sendByteActions b) = c) (bytes : List Byte) :
    count (actionsOf (frameOps bytes)) = count startActions + count stopActions + c * bytes.length := by
  have hsent : count (actionsOf (bytes.map .sendByte ++ [.stop])) = count stopActions + c * bytes.length := by
    induction bytes with
    | nil => rw [List.map_nil, List.nil_append, hcons, actionsOf_nil, hnil]; rfl
    | cons b bytes ih =>
      rw [List.map_cons, List.cons_append, hcons, ih, microActions, hbyte, List.length_cons, Nat.mul_succ]
      omega
  rw [frameOps, List.cons_append, hcons, hsent, microActions, Nat.add_assoc]

/-- With CLK high between the micro-operations the rising edges add up over them. -/
theorem risingEdges_actionsOf_cons (m : MicroOp) (ms : List MicroOp) :
    risingEdges (actionsOf (m :: ms)) true = risingEdges (microActions m) true + risingEdges (actionsOf ms) true := by
  have happend := risingEdges_append (microActions m) (actionsOf ms) Lines.idle
  rwa [linesAfter_microActions m rfl rfl, linesLeftBy_clkQ, ← actionsOf_cons] at happend

theorem length_frame (bytes : List Byte) : (actionsOf (frameOps bytes)).length = 9 + 47 * bytes.length :=
  count_frame rfl (by simp) (fun _ => rfl) bytes

theorem waitCount_frame (bytes : List Byte) : waitCount (actionsOf (frameOps bytes)) = 4 + 18 * bytes.length :=
  count_frame rfl (by simp) (fun _ => rfl) bytes

theorem risingEdges_sendByte (b : Byte) : risingEdges (sendByteActions b) true = 9 := by
  simp [sendByteActions, bitsOf, bitActions, ackActions, risingEdges]

theorem risingEdges_frame (bytes : List Byte) :
    risingEdges (actionsOf (frameOps bytes)) true = 9 * bytes.length + 1 := by
  rw [count_frame (count := (risingEdges · true)) rfl risingEdges_actionsOf_cons risingEdges_sendByte, Nat.add_comm]
  rfl

/-- Settles O16: the rows of the micro-operations are computed, the row of a frame adds them up. -/
theorem actionCounts : Obligations.ActionCounts :=
  ⟨⟨rfl, rfl, rfl, rfl⟩, fun b => ⟨rfl, rfl, risingEdges_sendByte b, sampleCount_sendByte b⟩,
    ⟨rfl, rfl, rfl, rfl⟩,
    fun bytes => ⟨length_frame bytes, waitCount_frame bytes, risingEdges_frame bytes, sampleCount_frame bytes⟩⟩

/-! ## The counts of a command's list -/

/-- Every display command sends the three phases of DISPLAY with its own brightness (R193-R198). -/
theorem opsOf_display (h : i.displayBright = some b) (p : Parameters) (data : List Byte) :
    opsOf p i data = displayOps p b data := by
  cases i with
  | raw | bcd | ascii | int | float => cases h; rfl
  | _ => cases h

theorem length_display (p : Parameters) (b : BitVec 3) (data : List Byte) :
    (actionsOf (displayOps p b data)).length = 168 + 47 * data.length := by
  simp only [displayOps, actionsOf_append, List.length_append, length_frame, List.length_cons, List.length_nil]
  omega

theorem waitCount_display (p : Parameters) (b : BitVec 3) (data : List Byte) :
    waitCount (actionsOf (displayOps p b data)) = 66 + 18 * data.length := by
  simp only [displayOps, actionsOf_append, waitCount_append, waitCount_frame, List.length_cons, List.length_nil]
  omega

/-- Settles O43: OFF's list is one frame, a display command's is three, and the time is T_HOLD for each WAIT. -/
theorem commandActionCounts : Obligations.CommandActionCounts := by
  refine ⟨fun p b d data => rfl, fun p b data => ?_, fun p i data hi => ?_⟩
  · have hlen : (actionsOf (opsOf p (.off b) data)).length = 56 := length_frame [p.ctrlOffByte]
    have hwait : waitCount (actionsOf (opsOf p (.off b) data)) = 22 := waitCount_frame [p.ctrlOffByte]
    have htime : minTimeUs p (actionsOf (opsOf p (.off b) data)) = 22 * p.tHold := by
      rw [minTimeUs, hwait, Nat.mul_comm]
    exact ⟨hlen, hwait, htime, fun h3 => by rw [htime, h3]⟩
  · obtain ⟨b, hb⟩ := Option.ne_none_iff_exists'.mp hi
    rw [opsOf_display hb]
    have htime : minTimeUs p (actionsOf (displayOps p b data)) = (66 + 18 * data.length) * p.tHold := by
      rw [minTimeUs, waitCount_display, Nat.mul_comm]
    exact ⟨length_display p b data, waitCount_display p b data, htime, fun h3 => by rw [htime, h3]; omega⟩

/-! ## The lines between micro-operations -/

/-- The last micro-operation alone says where the lines stand; idle lines are those a STOP leaves. -/
theorem linesAfter_actionsOf (m : MicroOp) (ms : List MicroOp) :
    linesAfter (actionsOf ms) (linesLeftBy m) = linesLeftBy ((m :: ms).getLast (List.cons_ne_nil m ms)) := by
  induction ms generalizing m with
  | nil => rfl
  | cons m' ms ih =>
    rw [actionsOf_cons, linesAfter_append, linesAfter_microActions m' (linesLeftBy_clkQ m) (linesLeftBy_dioMode m), ih,
      List.getLast_cons_cons]

/-- Which micro-operation may come after which: after STOP a frame begins, and within a frame none does (R111). -/
def MayFollow : MicroOp → MicroOp → Prop
  | .start, m => m ≠ .start
  | .sendByte _, m => m ≠ .start
  | .stop, m => m = .start

/-- From within a frame: its remaining bytes, its STOP, and then whatever may come after a STOP. -/
theorem isChain_rest_of_frame {m : MicroOp} {ms : List MicroOp} (hms : (MicroOp.stop :: ms).IsChain MayFollow)
    (hm : m ≠ .stop) (bytes : List Byte) :
    (m :: (bytes.map .sendByte ++ .stop :: ms)).IsChain MayFollow := by
  have hnext : ∀ m', m' ≠ .start → MayFollow m m' := by
    intro m' hm'
    cases m with
    | start => exact hm'
    | sendByte b => exact hm'
    | stop => exact absurd rfl hm
  induction bytes generalizing m with
  | nil => exact .cons_cons (hnext _ (by simp)) hms
  | cons b bytes ih => exact .cons_cons (hnext _ (by simp)) (ih (by simp) fun _ => id)

theorem isChain_frame_append {ms : List MicroOp} (hms : (MicroOp.stop :: ms).IsChain MayFollow) (bytes : List Byte) :
    (MicroOp.stop :: (frameOps bytes ++ ms)).IsChain MayFollow := by
  have hrest := isChain_rest_of_frame hms (m := .start) (by simp) bytes
  have hstart : MayFollow .stop .start := rfl
  simpa [frameOps] using hrest.cons_cons hstart

theorem isChain_frame (bytes : List Byte) : (MicroOp.stop :: frameOps bytes).IsChain MayFollow := by
  simpa using isChain_frame_append (.singleton _) bytes

/-- The list of every command is made of whole frames (R190, R193, R200). -/
theorem isChain_opsOf (p : Parameters) (i : Instr) (data : List Byte) :
    (MicroOp.stop :: opsOf p i data).IsChain MayFollow := by
  have display : ∀ b, (MicroOp.stop :: displayOps p b data).IsChain MayFollow := by
    intro b
    rw [displayOps, List.append_assoc]
    exact isChain_frame_append (isChain_frame_append (isChain_frame _) _) _
  cases i with
  | raw b _ _ => exact display b
  | bcd b _ _ => exact display b
  | ascii b _ => exact display b
  | int b _ _ => exact display b
  | float b _ _ => exact display b
  | off _ => exact isChain_frame _
  | _ => exact .singleton _

theorem linesAfter_opsOf (p : Parameters) (i : Instr) (data : List Byte) :
    linesAfter (actionsOf (opsOf p i data)) Lines.idle = Lines.idle := by
  rcases opsOf_nil_or_frame_last p i data with h | ⟨ops, bytes, hne, h⟩
  · rw [h]; rfl
  · rw [h, actionsOf_append, linesAfter_append, linesAfter_frame hne]

/-- Settles O17: the micro-operation before `m`, with a STOP before the first, says both whether `m` may be a START and
where the lines stand. -/
theorem lineStateBetweenMicroOps : Obligations.LineStateBetweenMicroOps := by
  intro p i data _
  refine ⟨linesAfter_opsOf p i data, fun before after m hops => ?_⟩
  have hchain := isChain_opsOf p i data
  rw [hops] at hchain
  rcases List.eq_nil_or_concat' before with rfl | ⟨before', m', rfl⟩
  · have hm : m = .start := (List.isChain_cons_cons.mp hchain).1
    exact ⟨fun _ => rfl, fun hne => absurd hm hne⟩
  · rw [List.append_assoc, List.singleton_append] at hchain
    obtain ⟨_, hfollow, _⟩ := List.isChain_cons_append_cons_cons.mp hchain
    have hlines : linesAfter (actionsOf (before' ++ [m'])) Lines.idle = linesLeftBy m' := by
      simpa [linesLeftBy] using linesAfter_actionsOf .stop (before' ++ [m'])
    rw [hlines]
    refine ⟨fun hm => ?_, fun hm => ⟨linesLeftBy_clkQ m', linesLeftBy_dioMode m', before', m', rfl, ?_⟩⟩
    · cases m' with
      | start => exact absurd hm hfollow
      | sendByte b => exact absurd hm hfollow
      | stop => rfl
    · cases m' with
      | start => exact .inl ⟨rfl, rfl⟩
      | sendByte b => exact .inr ⟨b, rfl, rfl⟩
      | stop => exact absurd hfollow hm

/-! ## DIO actions while CLK is high -/

/-- Every DIO action of the list, run from the lines `l`, stands where CLK is low. -/
def DioWhileClkLow : List Action → Lines → Prop
  | [], _ => True
  | a :: as, l => (∀ v, a = .dio v → l.clkQ = false) ∧ DioWhileClkLow as (lineEffect a l)

theorem DioWhileClkLow.append (has : DioWhileClkLow as l) (hbs : DioWhileClkLow bs (linesAfter as l)) :
    DioWhileClkLow (as ++ bs) l := by
  induction as generalizing l with
  | nil => exact hbs
  | cons a as ih =>
    obtain ⟨hhead, htail⟩ := has
    exact ⟨hhead, ih htail hbs⟩

theorem DioWhileClkLow.getElem? {n : Nat} {v : Level} (has : DioWhileClkLow as l) (h : as[n]? = some (.dio v)) :
    (linesAfter (as.take n) l).clkQ = false := by
  induction as generalizing l n with
  | nil => simp at h
  | cons a as ih =>
    obtain ⟨hhead, htail⟩ := has
    cases n with
    | zero => exact hhead v (by simpa using h)
    | succ n => exact ih htail (by simpa using h)

/-- SENDBYTE lowers CLK before it writes DIO (R103). -/
theorem dioWhileClkLow_sendByte (b : Byte) (l : Lines) : DioWhileClkLow (sendByteActions b) l := by
  simp [sendByteActions, bitsOf, bitActions, ackActions, DioWhileClkLow, lineEffect]

theorem dioWhileClkLow_sendBytes (bytes : List Byte) (l : Lines) :
    DioWhileClkLow (actionsOf (bytes.map .sendByte)) l := by
  induction bytes generalizing l with
  | nil => trivial
  | cons b bytes ih =>
    rw [List.map_cons, actionsOf_cons]
    exact (dioWhileClkLow_sendByte b l).append (ih _)

/-- The actions of a frame between START's fall and STOP's rise (R101, R109). -/
def innerActions (bytes : List Byte) : List Action :=
  .wait :: actionsOf (bytes.map .sendByte) ++ [.clk false, .dio false, .wait, .clk true, .wait]

theorem actionsOf_frame (bytes : List Byte) :
    actionsOf (frameOps bytes) = .dio false :: (innerActions bytes ++ [.dio true, .wait]) := by
  simp [frameOps, innerActions, microActions, startActions, stopActions]

theorem length_innerActions (bytes : List Byte) : (innerActions bytes).length = 47 * bytes.length + 6 := by
  have h := length_frame bytes
  simp only [actionsOf_frame, List.length_cons, List.length_append, List.length_nil] at h
  omega

theorem dioWhileClkLow_inner (bytes : List Byte) (l : Lines) : DioWhileClkLow (innerActions bytes) l := by
  have hend : ∀ l, DioWhileClkLow [.clk false, .dio false, .wait, .clk true, .wait] l := by
    simp [DioWhileClkLow, lineEffect]
  exact DioWhileClkLow.append ⟨by simp, dioWhileClkLow_sendBytes bytes _⟩ (hend _)

/-- Settles O18: between START's fall and STOP's rise every DIO action has CLK low, and after the rise a WAIT
ends the frame. -/
theorem dioActionsWhileClkHigh : Obligations.DioActionsWhileClkHigh := by
  intro bytes n v hn hclk
  rw [actionsOf_frame] at hn hclk
  have hlen := length_innerActions bytes
  cases n with
  | zero => exact .inl ⟨rfl, by simpa using hn.symm⟩
  | succ n =>
    rw [List.getElem?_cons_succ] at hn
    rw [List.take_succ_cons] at hclk
    rcases Nat.lt_or_ge n (innerActions bytes).length with hlt | hge
    · rw [List.getElem?_append_left hlt] at hn
      rw [List.take_append_of_le_length hlt.le] at hclk
      have hlow := (dioWhileClkLow_inner bytes (lineEffect (.dio false) Lines.idle)).getElem? hn
      exact absurd hclk (by simp [linesAfter, hlow])
    · rw [List.getElem?_append_right hge] at hn
      obtain ⟨k, rfl⟩ := Nat.exists_eq_add_of_le hge
      rw [Nat.add_sub_cancel_left] at hn
      match k with
      | 0 => exact .inr ⟨by omega, by simpa using hn.symm⟩
      | 1 => simp at hn
      | k + 2 => simp at hn

/-! ## The receiver's answers -/

/-- The record of the actions of a list, whatever its SAMPLEs read (R80, R108). -/
theorem runActions_trace_actions (as : List Action) (s : State) :
    (runActions as s).trace.map actionOfEvent = (as.map some).reverse ++ s.trace.map actionOfEvent := by
  induction as generalizing s with
  | nil => rfl
  | cons a as ih =>
    obtain ⟨e, htrace, hact⟩ := perform_trace a s
    simp [runActions, ih, htrace, hact]

/-- A run of an accepted command within its list is the first part of that list (R28, R192). -/
theorem run_accepted {s : State} {n : Nat} (hs : s.Accepted i) (hn : n ≤ s.actions.length) :
    core.run n s = .next { runActions (s.actions.take n) s with pc := n } := by
  have hrun := run_busy n s hs.notReset hs.noFramerWord hs.busy (by rwa [hs.pc, Nat.zero_add])
  rwa [hs.pc, List.drop_zero, Nat.zero_add] at hrun

/-- Settles O47: both runs perform the same part of the same list, whose record and lines the answers do
not enter. -/
theorem answersDoNotSteer : Obligations.AnswersDoNotSteer := by
  intro s i answers n hs hn
  have hs' : ({ s with dioIn := answers } : State).Accepted i :=
    ⟨hs.notReset, hs.noFramerWord, hs.busy, hs.cur, hs.host, hs.pc, hs.acc, hs.diag⟩
  have hactions : ({ s with dioIn := answers } : State).actions = s.actions := rfl
  have hrun' := run_accepted hs' hn
  rw [hactions] at hrun'
  refine ⟨_, _, run_accepted hs hn, hrun', ?_, ?_, ?_⟩
  · simp only [runActions_lines]
  · simp only [runActions_trace_actions]
  · constructor <;> simp

end Sys2Proof.Machine

/-! # Proofs of the family `41_encoder.md`: the encodings, their commands, and FLOAT_SCALE -/

/-! ## The acceptance step of a configured block -/

namespace Sys2Proof.Machine

variable {i : Instr} {s t : State} {b : BitVec 3} {e : Buf} {reason : RejReason}
  {prep : State → Except RejReason State} {enc : Parameters → Nat → Except RejReason Buf}

theorem accept_ok (hb : s.busy = false) (h : prep s = .ok t) : accept i prep s = .next (t.latch i) := by
  simp [accept, hb, h]

theorem accept_error (hb : s.busy = false) (h : prep s = .error reason) : accept i prep s = .next (s.refuse reason) := by
  simp [accept, hb, h]

theorem requireConfig_configured (hc : s.cfgValid = true) : requireConfig prep s = prep s := by
  simp [requireConfig, hc]

/-- An encoding whose checks pass is accepted with its window loaded (R191, R195-R198). -/
theorem accept_encoded_ok (hb : s.busy = false) (hc : s.cfgValid = true) (he : enc s.params s.digits = .ok e) :
    accept i (requireConfig (prepEncoded enc)) s = .next ((s.loadWindow e).latch i) :=
  accept_ok hb (by rw [requireConfig_configured hc, prepEncoded, he])

/-- An encoding whose check fails is refused with the reason of that check (R243, R244). -/
theorem accept_encoded_error (hb : s.busy = false) (hc : s.cfgValid = true)
    (he : enc s.params s.digits = .error reason) :
    accept i (requireConfig (prepEncoded enc)) s = .next (s.refuse reason) :=
  accept_error hb (by rw [requireConfig_configured hc, prepEncoded, he])

/-- The commands that fill the capacity buffer are those with three phases but RAW; none looks at the state beyond the
parameters and the digit count (R147). -/
theorem exec_encoding (hi : i.displayBright ≠ none) (hraw : ∀ b data count, i ≠ .raw b data count) :
    ∃ enc, ∀ s, exec i s = accept i (requireConfig (prepEncoded enc)) s := by
  cases i with
  | raw b data count => exact absurd rfl (hraw b data count)
  | bcd | ascii | int | float => exact ⟨_, fun _ => rfl⟩
  | _ => exact absurd rfl hi

/-! ## What an accepted encoding command leaves -/

theorem acceptedFrom_loadWindow (i : Instr) (e : Buf) (s : State) : State.AcceptedFrom i s ((s.loadWindow e).latch i) := by
  constructor <;> rfl

/-- The window fills the first `D` entries of the transmit buffer and leaves the others (R33, R146). -/
theorem windowLoaded_loadWindow (i : Instr) (e : Buf) (hd : s.digits ≤ 6) :
    State.WindowLoaded s ((s.loadWindow e).latch i) := by
  have hlen : (window e s.digits).length = s.digits := window_length e s.digits hd
  refine ⟨?_, fun k => ?_⟩
  · rw [State.latch_dcount, State.loadWindow_dcount, hlen, toNat_dcount _ hd]
  · rw [State.latch_dbuf, State.latch_ebuf, State.loadWindow_dbuf, State.loadWindow_ebuf, Fin.getElem_fin,
      writeFrom_get _ _ _ _ k.isLt, hlen, window_getD]
    simp

theorem ops_loadWindow (hi : i.displayBright = some b) (e : Buf) (hd : s.digits ≤ 6) :
    ((s.loadWindow e).latch i).ops = displayOps s.params b (window e s.digits) := by
  have hdata : ((s.loadWindow e).latch i).phase2Data = window e s.digits :=
    phase2Data_loadDbuf (window e s.digits) { s with ebuf := e } ((window_length e s.digits hd).trans_le hd)
  rw [State.ops, State.latch_cur, hdata]
  exact opsOf_display hi s.params _

/-- The completion of every encoding command: accepted, latched, the buffer of its encoding loaded (R191). -/
theorem encoded_completes {Q : Buf → Prop} (hb : s.busy = false) (hc : s.cfgValid = true) (hd : s.digits ≤ 6)
    (hi : i.displayBright = some b) (he : enc s.params s.digits = .ok e) (hq : Q e) :
    ∃ t, accept i (requireConfig (prepEncoded enc)) s = .next t ∧ State.AcceptedFrom i s t ∧ State.SameConfig s t ∧
      Q t.ebuf ∧ State.WindowLoaded s t ∧ t.ops = displayOps s.params b (window t.ebuf s.digits) :=
  ⟨_, accept_encoded_ok hb hc he, acceptedFrom_loadWindow i e s, ⟨rfl, rfl⟩, hq, windowLoaded_loadWindow i e hd,
    ops_loadWindow hi e hd⟩

/-- Settles O26: the encoding's result and the window loaded from it do not mention the old `ebuf`. -/
theorem encodingIgnoresOldBuffer : Obligations.EncodingIgnoresOldBuffer := by
  intro i e s t u hi hraw ht hu hidle hbusy
  obtain ⟨enc, hexec⟩ := exec_encoding hi hraw
  rw [hexec] at ht hu
  rcases encoded_cases ht with rfl | ⟨r, rfl⟩ | ⟨_, hc, e', he', rfl⟩
  · simp [hidle] at hbusy
  · simp [hidle] at hbusy
  · have haccept := accept_encoded_ok (i := i) (s := { s with ebuf := e }) hidle hc he'
    cases hu.symm.trans haccept
    exact ⟨rfl, rfl, rfl, rfl⟩

/-! ## BCD and ASCII -/

section RightAlign

variable {p : Parameters} {vals text : List Byte} {count d : Nat}

theorem clearBuf_getElem (j : Nat) (hj : j < 6) : clearBuf[j] = 0 := by
  simp [clearBuf, Params.segBlank]

/-- RIGHT-ALIGN on the cleared buffer (R140, R143). -/
theorem rightAligned_rightAlign {xs : List Byte} (h : xs.length ≤ 6) : RightAligned xs (rightAlign xs) := by
  intro j
  have hj : (j : Nat) < Config.cap - xs.length + xs.length := by
    have := j.isLt
    simp only [Config.cap]
    omega
  simp only [rightAlign, Fin.getElem_fin, writeFrom_get _ _ _ _ j.isLt, clearBuf_getElem, hj, and_true]

theorem encodeBcd_ok (hlen : min count d ≤ vals.length) (h : ∀ v ∈ vals.take (min count d), v.toNat ≤ 15) :
    encodeBcd p vals count d = .ok (rightAlign ((vals.take (min count d)).map fun v => Params.segHex p v.toNat)) := by
  simpa [encodeBcd, hlen.not_gt] using h

theorem encodeBcd_short (hlen : vals.length < min count d) : encodeBcd p vals count d = .error .argLength := by
  simp only [encodeBcd, clampCount, if_pos hlen]

theorem encodeBcd_range (hlen : min count d ≤ vals.length) (h : ∃ v ∈ vals.take (min count d), 15 < v.toNat) :
    encodeBcd p vals count d = .error .bcdRange := by
  simpa [encodeBcd, hlen.not_gt] using h

/-- The clamp of a text's length takes what the digit count alone takes (R153). -/
theorem take_clampCount (text : List Byte) (d : Nat) : text.take (clampCount text.length d) = text.take d := by
  rw [clampCount, min_comm, ← List.take_take, List.take_length]

theorem encodeAscii_ok (h : ∀ c ∈ text.take d, c.toNat ≤ 127) :
    encodeAscii p text d = .ok (rightAlign ((text.take d).map fun c => Params.segAscii p c.toNat)) := by
  simpa [encodeAscii, take_clampCount] using h

theorem encodeAscii_range (h : ∃ c ∈ text.take d, 127 < c.toNat) : encodeAscii p text d = .error .asciiRange := by
  simpa [encodeAscii, take_clampCount] using h

/-- Settles O29: BCD's checks pass, and its buffer is the right-aligned images. -/
theorem bcdCompletes : Obligations.BcdCompletes := by
  intro b vals count s hb hc hd hlen hrange
  exact encoded_completes hb hc hd rfl (encodeBcd_ok hlen hrange)
    (rightAligned_rightAlign (by simp only [List.length_map, List.length_take]; omega))

/-- Settles O30: ASCII's check passes, and its buffer is the right-aligned images. -/
theorem asciiCompletes : Obligations.AsciiCompletes := by
  intro b text s hb hc hd hrange
  exact encoded_completes hb hc hd rfl (encodeAscii_ok hrange)
    (rightAligned_rightAlign (by simp only [List.length_map, List.length_take]; omega))

end RightAlign

/-! ## DECIMAL -/

section Decimal

variable {p : Parameters} {value dp : Int} {fuel m w : Nat} {buf : Buf}

/-- DECIMAL's exit after pass `w`: the buffer is full, or the magnitude is used up and the point is passed (R161, R163). -/
abbrev DecimalDone (dp : Int) (m w : Nat) : Prop :=
  w + 1 = Config.cap ∨ (m / 10 = 0 ∧ dp + 1 ≤ ((w + 1 : Nat) : Int))

theorem decimalLoop_done (h : DecimalDone dp m w) :
    decimalLoop p dp (fuel + 1) m w buf =
      (buf.setIfInBounds (Config.cap - 1 - w) (digitByte p m dp w), w + 1) := by
  rcases h with h | h <;> simp only [decimalLoop, h, if_true, and_self, ite_self]

theorem decimalLoop_next (h : ¬DecimalDone dp m w) :
    decimalLoop p dp (fuel + 1) m w buf =
      decimalLoop p dp fuel (m / 10) (w + 1) (buf.setIfInBounds (Config.cap - 1 - w) (digitByte p m dp w)) := by
  obtain ⟨hcap, hstop⟩ := not_or.mp h
  rw [decimalLoop, if_neg hcap, if_neg hstop]

theorem one_le_digitsNeeded (n : Nat) : 1 ≤ digitsNeeded n := le_max_left _ _

/-- The digits written by DECIMAL's loop that is before pass `w`: as many as the magnitude left and the point ask for, up
to the capacity (R161, R163). -/
theorem decimalLoop_count (hfuel : w + (fuel + 1) = 6) :
    (decimalLoop p dp (fuel + 1) m w buf).2 = min 6 (max (w + digitsNeeded m) (dp + 1).toNat) := by
  have hpos := one_le_digitsNeeded m
  induction fuel generalizing m w buf with
  | zero => rw [decimalLoop_done (.inl hfuel)]; omega
  | succ fuel ih =>
    by_cases hdone : DecimalDone dp m w
    · rw [decimalLoop_done hdone]
      rcases hdone with hcap | ⟨hm, hdp⟩
      · simp only [Config.cap] at hcap
        omega
      · rw [digitsNeeded_small m hm]
        omega
    · rw [decimalLoop_next hdone, ih (by omega) (one_le_digitsNeeded _)]
      by_cases hm : m / 10 = 0
      · have hdp : ¬dp + 1 ≤ ((w + 1 : Nat) : Int) := fun hdp => hdone (.inr ⟨hm, hdp⟩)
        rw [hm, digitsNeeded_small m hm, digitsNeeded_small 0 rfl]
        omega
      · rw [digitsNeeded_big m hm]
        omega

/-- The write of one pass, read position by position from the units (R161). -/
theorem digitWrite_getD {k : Nat} (hk : k < 6) (hw : w < 6) :
    (buf.setIfInBounds (Config.cap - 1 - w) (digitByte p m dp w)).toList.getD (5 - k) 0 =
      if w ≤ k ∧ k < w + 1 then digitByte p (m / 10 ^ (k - w)) dp k else buf.toList.getD (5 - k) 0 := by
  rw [set_getD buf w k hw hk]
  by_cases h : k = w
  · subst h; simp
  · rw [if_neg h, if_neg (by omega)]

/-- DECIMAL's loop, read position by position from the units: the passes from `w` on write the digits of the magnitude left
and nothing else (R160-R162). -/
theorem decimalLoop_getD {k : Nat} (hk : k < 6) (hfuel : w + (fuel + 1) = 6) :
    (decimalLoop p dp (fuel + 1) m w buf).1.toList.getD (5 - k) 0 =
      if w ≤ k ∧ k < (decimalLoop p dp (fuel + 1) m w buf).2 then digitByte p (m / 10 ^ (k - w)) dp k
      else buf.toList.getD (5 - k) 0 := by
  induction fuel generalizing m w buf with
  | zero => rw [decimalLoop_done (.inl hfuel)]; exact digitWrite_getD hk (by omega)
  | succ fuel ih =>
    by_cases hdone : DecimalDone dp m w
    · rw [decimalLoop_done hdone]; exact digitWrite_getD hk (by omega)
    · have hpos := one_le_digitsNeeded (m / 10)
      rw [decimalLoop_next hdone, ih (by omega), digitWrite_getD hk (by omega), decimalLoop_count (by omega)]
      rcases lt_trichotomy k w with h | rfl | h
      · simp only [show ¬w + 1 ≤ k by omega, show ¬w ≤ k by omega, false_and, if_false]
      · rw [if_neg (by omega), if_pos (by omega), if_pos (by omega)]
      · have hdigit : m / 10 / 10 ^ (k - (w + 1)) = m / 10 ^ (k - w) := by
          rw [Nat.div_div_eq_div_mul, ← pow_succ', show k - (w + 1) + 1 = k - w by omega]
        simp only [hdigit, show w + 1 ≤ k by omega, h.le, true_and, show ¬k < w + 1 by omega, and_false, if_false]

/-- The cleared buffer is blank at every position (R140). -/
theorem clearBuf_getD (k : Nat) : clearBuf.toList.getD (5 - k) 0 = Params.segBlank := by
  rw [getD_toList _ _ (by omega), clearBuf_getElem]; rfl

/-- What DECIMAL leaves: the digits of the loop, the minus left of them if there is room, blanks (R160-R164). -/
theorem decimalImage_encodeDecimal (p : Parameters) (value dp : Int) :
    DecimalImage p value dp (encodeDecimal p value dp) := by
  intro k
  have hk := k.isLt
  have hcount : (decimalLoop p dp 6 value.natAbs 0 clearBuf).2 = digitsWritten value dp := by
    rw [decimalLoop_count rfl, Nat.zero_add]; rfl
  have hloop := decimalLoop_getD (p := p) (dp := dp) (m := value.natAbs) (buf := clearBuf) hk (w := 0) (fuel := 5) rfl
  simp only [Nat.reduceAdd, hcount, clearBuf_getD, Nat.zero_le, true_and, Nat.sub_zero] at hloop
  change _ = if (k : Nat) < digitsWritten value dp then digitByte p (value.natAbs / 10 ^ (k : Nat)) dp k else _
  simp only [encodeDecimal, hcount]
  by_cases hminus : value < 0 ∧ digitsWritten value dp < Config.cap
  · obtain ⟨hneg, hroom⟩ := hminus
    rw [if_pos ⟨hneg, hroom⟩, set_getD _ _ _ hroom hk, hloop]
    by_cases h : (k : Nat) = digitsWritten value dp
    · rw [if_pos h, if_neg (by omega), if_pos ⟨h, hneg⟩]
    · simp only [h, false_and, if_false]
  · rw [if_neg hminus, hloop]
    have hplace : ¬((k : Nat) = digitsWritten value dp ∧ value < 0) := fun ⟨h, hneg⟩ => hminus ⟨hneg, h ▸ hk⟩
    rw [if_neg hplace]

/-- Settles O22: the image is what the loop and the sign leave. -/
theorem decimalLeavesImage : Obligations.DecimalLeavesImage := decimalImage_encodeDecimal

/-- Settles O31: INT has no check of its own, and its buffer is DECIMAL's. -/
theorem intCompletes : Obligations.IntCompletes := by
  intro b value dp s hb hc hd
  exact encoded_completes hb hc hd rfl rfl (decimalImage_encodeDecimal _ _ _)

/-! ### The round trip of the integers -/

/-- The decimal digits of a magnitude, units first, without leading zeros but for 0 itself (R167). -/
def magnitudeDigits (n : Nat) : List Nat := if n = 0 then [0] else Nat.digits 10 n

theorem length_magnitudeDigits (n : Nat) : (magnitudeDigits n).length = digitsNeeded n := by
  unfold magnitudeDigits digitsNeeded
  split_ifs with h
  · simp [h]
  · exact (max_eq_right (List.length_pos_iff.mpr (Nat.digits_ne_nil_iff_ne_zero.mpr h))).symm

theorem getElem_magnitudeDigits {n k : Nat} (hk : k < (magnitudeDigits n).length) :
    (magnitudeDigits n)[k] = n / 10 ^ k % 10 := by
  rw [← List.getD_eq_getElem _ 0 hk]
  unfold magnitudeDigits at hk ⊢
  split_ifs at hk ⊢ with h
  · obtain rfl : k = 0 := by simpa using hk
    simp [h]
  · exact Nat.getD_digits n k (by norm_num)

theorem digitsNeeded_le {n k : Nat} (hk : 1 ≤ k) (hn : n < 10 ^ k) : digitsNeeded n ≤ k :=
  max_le hk ((Nat.digits_length_le_iff (by norm_num) n).mpr hn)

/-- In R167's range the digits and the sign fit the six positions. -/
theorem digitsNeeded_add_sign_le (hlo : -99999 ≤ value) (hhi : value ≤ 999999) :
    digitsNeeded value.natAbs + (if value < 0 then 1 else 0) ≤ 6 := by
  split_ifs with hneg
  · have := digitsNeeded_le (n := value.natAbs) (k := 5) (by norm_num) (by omega)
    omega
  · exact digitsNeeded_le (by norm_num) (by omega)

/-- Without a point DECIMAL writes the digits of the magnitude and no more. -/
theorem digitsWritten_noPoint (hcap : digitsNeeded value.natAbs ≤ Config.cap) (hdp : dp < 0) :
    digitsWritten value dp = digitsNeeded value.natAbs := by
  rw [digitsWritten, Int.toNat_of_nonpos (by omega), Nat.max_zero, min_eq_right hcap]

/-- The whole buffer read right to left is the buffer from the units on (R167). -/
theorem getElem_window_reverse {k : Nat} (hk : k < (window buf 6).reverse.length) :
    (window buf 6).reverse[k] = buf.toList.getD (5 - k) 0 := by
  rw [List.length_reverse, window_length _ _ le_rfl] at hk
  rw [List.getElem_reverse, ← List.getD_eq_getElem _ 0, window_getD, window_length _ _ le_rfl]
  simp

/-- Settles O23: without a point DECIMAL writes the digits of the magnitude, which leave room for the sign; the image is
then the digits, the minus and the blanks. -/
theorem integerRoundTrip : Obligations.IntegerRoundTrip := by
  intro p v dp hlo hhi hdp
  have hlen := digitsNeeded_add_sign_le hlo hhi
  have hwritten := digitsWritten_noPoint (le_trans (Nat.le_add_right _ _) hlen) hdp
  have hdigits : (if v = 0 then [0] else Nat.digits 10 v.natAbs) = magnitudeDigits v.natAbs := by
    simp only [magnitudeDigits, Int.natAbs_eq_zero]
  rw [hdigits]
  apply List.ext_getElem
  · rw [List.length_reverse, window_length _ _ le_rfl]
    simp only [List.length_append, List.length_map, length_magnitudeDigits, List.length_replicate]
    split_ifs at hlen ⊢ <;> simp only [List.length_cons, List.length_nil] <;> omega
  · intro k hk hk'
    have hk6 : k < 6 := by simpa [window_length] using hk
    have himage := decimalImage_encodeDecimal p v dp ⟨k, hk6⟩
    have hpoint : ¬dp = (k : Int) := by omega
    rw [getElem_window_reverse]
    simp only [hwritten, hpoint, if_false] at himage
    rw [himage]
    by_cases hdigit : k < digitsNeeded v.natAbs
    · rw [if_pos hdigit, List.getElem_append_left (by simpa [length_magnitudeDigits] using Nat.lt_add_right _ hdigit),
        List.getElem_append_left (by simpa [length_magnitudeDigits] using hdigit), List.getElem_map,
        getElem_magnitudeDigits]
    · rw [if_neg hdigit]
      by_cases hsign : k = digitsNeeded v.natAbs ∧ v < 0
      · simp [hsign, length_magnitudeDigits]
      · rw [if_neg hsign, List.getElem_append_right, List.getElem_replicate]
        simp only [List.length_append, List.length_map, length_magnitudeDigits]
        split_ifs <;> simp only [List.length_cons, List.length_nil] <;> omega

end Decimal

/-! ## FITS and FLOAT -/

section Float

variable {p : Parameters} {f : Float64} {precision v dp : Int} {d : Nat}

/-- The repeated division counts the decimal digits (R172). -/
theorem ndigitsLoop_eq_digitsNeeded {fuel n : Nat} (h : n ≤ fuel) : ndigitsLoop fuel n = digitsNeeded n := by
  induction fuel generalizing n with
  | zero =>
    obtain rfl : n = 0 := by omega
    rfl
  | succ fuel ih =>
    rw [ndigitsLoop]
    split_ifs with hsmall
    · rw [digitsNeeded_small n (by omega)]
    · rw [digitsNeeded_big n (by omega), ih (by omega)]

theorem ndigits_eq_digitsNeeded (n : Nat) : ndigits n = digitsNeeded n := ndigitsLoop_eq_digitsNeeded le_rfl

theorem digitsNeeded_eq_log {n : Nat} (hn : 1 ≤ n) : digitsNeeded n = 1 + Nat.log 10 n := by
  rw [digitsNeeded, Nat.length_digits 10 n (by norm_num) (by omega)]
  omega

/-- FITS is R172's inequality. -/
theorem fits_iff : fits v dp d = true ↔
    max (ndigits v.natAbs) (if 0 ≤ dp then dp.toNat + 1 else 1) + (if v < 0 then 1 else 0) ≤ d :=
  decide_eq_true_iff

/-- Settles O24. -/
theorem fitsIsTheRule : Obligations.FitsIsTheRule :=
  ⟨rfl, fun n hn => (ndigits_eq_digitsNeeded n).trans (digitsNeeded_eq_log hn), fun _ _ _ => fits_iff⟩

/-- FLOAT's buffer, when the scaled integer has the signed width and fits (R171-R173). -/
theorem encodeFloat_ok (hscale : Params.scaleFloat p f precision = some v) (hwidth : Params.inWidth p v = true)
    (hfits : fits v (floatDp precision) d = true) :
    encodeFloat p f precision d = .ok (encodeDecimal p v (floatDp precision)) := by
  simp [encodeFloat, floatInt, hscale, hwidth, hfits]

/-- FLOAT's refusal: there is no scaled integer of the signed width that fits (R172). -/
theorem encodeFloat_range (h : ∀ v, Params.scaleFloat p f precision = some v → Params.inWidth p v = true →
    ¬fits v (floatDp precision) d = true) : encodeFloat p f precision d = .error .floatRange := by
  have hint : floatInt p f precision d = none := by
    cases hscale : Params.scaleFloat p f precision with
    | none => simp [floatInt, hscale]
    | some v =>
      cases hwidth : Params.inWidth p v with
      | false => simp [floatInt, hscale, hwidth]
      | true => simp [floatInt, hscale, hwidth, h v hscale hwidth]
  rw [encodeFloat, hint]

/-- Settles O32: FLOAT's checks pass, and its buffer is DECIMAL's of the scaled integer. -/
theorem floatCompletes : Obligations.FloatCompletes := by
  intro b f precision p v dp s hb hc hd hp hscale hdp hlo hhi hroom
  subst hp hdp
  have hwidth : Params.inWidth s.params v = true := Params.inWidth_iff.mpr ⟨hlo, hhi⟩
  rw [← ndigits_eq_digitsNeeded] at hroom
  exact encoded_completes hb hc hd rfl (encodeFloat_ok hscale hwidth (fits_iff.mpr hroom))
    (decimalImage_encodeDecimal _ _ _)

end Float

/-! ## The refusals -/

/-- Settles O37: each opcode's own check fails with its reason, which the acceptance step reports. -/
theorem refusalCauses : Obligations.RefusalCauses := by
  refine ⟨fun b d s hb hd => ?init, fun b data count s hb hc hlen => ?raw, fun b vals count s hb hc hlen => ?bcdShort,
    fun b vals count s hb hc hlen hrange => ?bcdRange, fun b text s hb hc hrange => ?ascii,
    fun b f precision p dp s hb hc hp hdp hroom => ?float⟩
  case init => exact accept_error (prep := prepInit d) (reason := .digitNumRange) hb (if_pos hd)
  case raw =>
    exact accept_error (prep := requireConfig (prepRaw data count)) (reason := .argLength) hb
      ((requireConfig_configured hc).trans (if_pos hlen))
  case bcdShort => exact accept_encoded_error (enc := fun p => encodeBcd p vals count) hb hc (encodeBcd_short hlen)
  case bcdRange =>
    exact accept_encoded_error (enc := fun p => encodeBcd p vals count) hb hc (encodeBcd_range hlen hrange)
  case ascii => exact accept_encoded_error (enc := fun p => encodeAscii p text) hb hc (encodeAscii_range hrange)
  case float =>
    subst hp hdp
    refine accept_encoded_error (enc := fun p => encodeFloat p f (Params.toWidth p precision)) hb hc
      (encodeFloat_range fun v hscale hwidth hfits => ?_)
    obtain ⟨hlo, hhi⟩ := Params.inWidth_iff.mp hwidth
    have hfits' := fits_iff.mp hfits
    rw [ndigits_eq_digitsNeeded] at hfits'
    exact absurd hfits' (hroom v hscale hlo hhi).not_ge

end Sys2Proof.Machine

/-! ## RNE64 -/

namespace Sys2Proof.Machine

section Rounding

variable {x : ℚ} {q r : FinFloat}

/-- RNE64 before its overflow check: `q` is the nearest value to `x` with the exponent of its binade, ties to even,
however great the exponent (R170). -/
structure Nearest (x : ℚ) (q : FinFloat) : Prop where
  expLow : -1074 ≤ q.exp
  binade : q.exp = -1074 ∨ (2 : ℚ) ^ (52 + q.exp) ≤ x
  below : x < (2 : ℚ) ^ (53 + q.exp)
  near : |x - q.value| ≤ (2 : ℚ) ^ q.exp / 2
  even : |x - q.value| = (2 : ℚ) ^ q.exp / 2 → q.mant % 2 = 0

theorem RoundsTo.nearest (h : RoundsTo x q) : Nearest x q := ⟨h.expLow, h.binade, h.below, h.near, h.even⟩

theorem two_zpow_pos (k : Int) : (0 : ℚ) < 2 ^ k := zpow_pos (by norm_num) k

theorem two_zpow_le_iff {a b : Int} : (2 : ℚ) ^ a ≤ 2 ^ b ↔ a ≤ b := zpow_le_zpow_iff_right₀ (by norm_num)

theorem two_zpow_lt_iff {a b : Int} : (2 : ℚ) ^ a < 2 ^ b ↔ a < b := zpow_lt_zpow_iff_right₀ (by norm_num)

theorem dist_units (y : ℚ) (q : FinFloat) : |y * 2 ^ q.exp - q.value| = |y - q.mant| * 2 ^ q.exp := by
  rw [FinFloat.value, ← sub_mul, abs_mul, abs_of_pos (two_zpow_pos q.exp)]

theorem near_units_iff {y : ℚ} : |y * 2 ^ q.exp - q.value| ≤ (2 : ℚ) ^ q.exp / 2 ↔ |y - q.mant| ≤ 1 / 2 := by
  rw [dist_units, ← one_div_mul_eq_div, mul_le_mul_iff_left₀ (two_zpow_pos q.exp)]

theorem tie_units_iff {y : ℚ} : |y * 2 ^ q.exp - q.value| = (2 : ℚ) ^ q.exp / 2 ↔ |y - q.mant| = 1 / 2 := by
  rw [dist_units, ← one_div_mul_eq_div, mul_left_inj' (two_zpow_pos q.exp).ne']

/-- The rounding in units of the last place: `y` units become `q.mant` units. -/
theorem Nearest.units {y : ℚ} (h : Nearest (y * 2 ^ q.exp) q) :
    (q.exp = -1074 ∨ 2 ^ 52 ≤ y) ∧ y < 2 ^ 53 ∧ |y - q.mant| ≤ 1 / 2 ∧ (|y - q.mant| = 1 / 2 → q.mant % 2 = 0) := by
  have hu := two_zpow_pos q.exp
  refine ⟨h.binade.imp_right fun hlow => ?_, ?_, near_units_iff.mp h.near, fun htie => h.even (tie_units_iff.mpr htie)⟩
  · rw [two_zpow_add, mul_le_mul_iff_left₀ hu] at hlow
    exact_mod_cast hlow
  · have hup := h.below
    rw [two_zpow_add, mul_lt_mul_iff_left₀ hu] at hup
    exact_mod_cast hup

/-- Every number is a number of units. -/
theorem exists_units (x : ℚ) (e : Int) : ∃ y, x = y * 2 ^ e :=
  ⟨x / 2 ^ e, (div_mul_cancel₀ x (two_zpow_pos e).ne').symm⟩

/-- Binades do not overlap: two roundings of the same number have the same exponent. -/
theorem Nearest.exp_le (hq : Nearest x q) (hr : Nearest x r) : q.exp ≤ r.exp := by
  rcases hq.binade with h | h
  · exact h.trans_le hr.expLow
  · have := two_zpow_lt_iff.mp (h.trans_lt hr.below)
    omega

/-- Two integers within one half of the same number, the even one at one half, are not in order. -/
theorem le_of_nearestEven {y : ℚ} {m n : Nat} (hm : |y - m| ≤ 1 / 2) (hm' : |y - m| = 1 / 2 → m % 2 = 0)
    (hn : |y - n| ≤ 1 / 2) (hn' : |y - n| = 1 / 2 → n % 2 = 0) : n ≤ m := by
  by_contra! hlt
  have hlt' : (m : ℚ) + 1 ≤ n := by exact_mod_cast hlt
  have hym : y = m + 1 / 2 := by linarith [(abs_le.mp hm).2, (abs_le.mp hn).1]
  have hyn : y = n - 1 / 2 := by linarith [(abs_le.mp hm).2, (abs_le.mp hn).1]
  have hnm : n = m + 1 := by
    have : (n : ℚ) = m + 1 := by linarith
    exact_mod_cast this
  have hmeven := hm' (by rw [hym]; norm_num)
  have hneven := hn' (by rw [hyn]; norm_num)
  omega

/-- The rounding is unique. -/
theorem Nearest.unique (hq : Nearest x q) (hr : Nearest x r) : q = r := by
  have hexp : q.exp = r.exp := (hq.exp_le hr).antisymm (hr.exp_le hq)
  obtain ⟨y, rfl⟩ := exists_units x q.exp
  obtain ⟨_, _, hnear, heven⟩ := hq.units
  rw [hexp] at hr
  obtain ⟨_, _, hnear', heven'⟩ := hr.units
  have hmant : q.mant = r.mant :=
    (le_of_nearestEven hnear' heven' hnear heven).antisymm (le_of_nearestEven hnear heven hnear' heven')
  cases q; cases r; simp_all

/-- A whole number of units is rounded to itself. -/
theorem Nearest.value_eq_of_units (h : Nearest x q) (n : Nat) (hx : x = n * 2 ^ q.exp) : q.value = x := by
  subst hx
  obtain ⟨_, _, hnear, _⟩ := h.units
  have hmant : n = q.mant := by
    have hlt : |(n : ℚ) - q.mant| < 1 := by linarith
    have hlt' : |(n : Int) - q.mant| < 1 := by exact_mod_cast hlt
    have := Int.abs_lt_one_iff.mp hlt'
    omega
  rw [FinFloat.value, ← hmant]

/-- A value with a significand below `2^53` and an exponent from the least on is a binary64 value, rounded to itself. -/
theorem Nearest.value_eq_of_representable (h : Nearest x q) (m : Nat) (e : Int) (hm : m < 2 ^ 53) (he : -1074 ≤ e)
    (hx : x = m * 2 ^ e) : q.value = x := by
  have hexp : q.exp ≤ e := by
    rcases h.binade with hq | hq
    · omega
    · have hup : x < 2 ^ (53 + e) := by
        rw [hx, two_zpow_add]
        exact mul_lt_mul_of_pos_right (by exact_mod_cast hm) (two_zpow_pos e)
      have := two_zpow_lt_iff.mp (hq.trans_lt hup)
      omega
  obtain ⟨k, hk⟩ := Int.eq_ofNat_of_zero_le (Int.sub_nonneg.mpr hexp)
  refine h.value_eq_of_units (m * 2 ^ k) ?_
  rw [hx, show e = k + q.exp by omega, two_zpow_add, zpow_natCast]
  push_cast
  ring

/-! Where the rounding of `y` units, the nearest integer `m` of them, reaches `2^54 * c`: with units of at most `c` never,
with units of `2 * c` where `y` is half a unit below, with units of `4 * c` and more always. -/

section Reach

variable {y c u : ℚ} {m : Nat}

theorem reach_of_small_unit (hu : 0 < u) (huc : u ≤ c) (hy : y < 2 ^ 53) (hnear : |y - m| ≤ 1 / 2) :
    ¬(2 ^ 54 - 1) * c ≤ y * u ∧ ¬2 ^ 54 * c ≤ m * u := by
  have hyu : y * u < 2 ^ 53 * u := mul_lt_mul_of_pos_right hy hu
  have hmu : m * u ≤ (y + 1 / 2) * u := mul_le_mul_of_nonneg_right (by linarith [(abs_le.mp hnear).1]) hu.le
  constructor <;> linarith

theorem reach_of_last_unit (hc : 0 < c) (hnear : |y - m| ≤ 1 / 2) (heven : |y - m| = 1 / 2 → m % 2 = 0) :
    (2 ^ 54 - 1) * c ≤ y * (2 * c) ↔ 2 ^ 54 * c ≤ m * (2 * c) := by
  obtain ⟨hlo, hhi⟩ := abs_le.mp hnear
  rw [← mul_assoc, ← mul_assoc, mul_le_mul_iff_left₀ hc, mul_le_mul_iff_left₀ hc]
  constructor
  · intro hy
    by_contra! hlt
    have hlt' : m < 2 ^ 53 := by exact_mod_cast (by linarith : (m : ℚ) < 2 ^ 53)
    have hle : (m : ℚ) + 1 ≤ 2 ^ 53 := by exact_mod_cast hlt'
    have htie : y - m = 1 / 2 := by linarith
    have hodd : m + 1 = 2 ^ 53 := by exact_mod_cast (by linarith : (m : ℚ) + 1 = 2 ^ 53)
    have := heven (by rw [htie]; norm_num)
    omega
  · intro hm
    linarith

theorem reach_of_great_unit (hc : 0 < c) (hcu : 2 ^ 2 * c ≤ u) (hy : 2 ^ 52 ≤ y) (hnear : |y - m| ≤ 1 / 2) :
    (2 ^ 54 - 1) * c ≤ y * u ∧ 2 ^ 54 * c ≤ m * u := by
  have hm : 2 ^ 52 ≤ m := by
    have hlt : (2 : ℚ) ^ 52 < m + 1 := by linarith [(abs_le.mp hnear).2]
    exact Nat.le_of_lt_succ (by exact_mod_cast hlt)
  have hu : 0 ≤ u := by linarith
  have hyu : 2 ^ 52 * u ≤ y * u := mul_le_mul_of_nonneg_right hy hu
  have hmu : (2 : ℚ) ^ 52 * u ≤ m * u := mul_le_mul_of_nonneg_right (by exact_mod_cast hm) hu
  constructor <;> linarith

end Reach

/-- Rounding reaches `2^1024`, past the greatest finite value, exactly from half a unit above that value on (R170): that
value is `2^53 - 1` units of `2^971`. -/
theorem Nearest.overflows_iff (h : Nearest x q) : Overflows x ↔ (2 : ℚ) ^ 1024 ≤ q.value := by
  obtain ⟨y, rfl⟩ := exists_units x q.exp
  obtain ⟨hlow, hup, hnear, heven⟩ := h.units
  have hc := two_zpow_pos 970
  have hmul : ∀ k : Int, (2 : ℚ) ^ (k + 970) = 2 ^ k * 2 ^ (970 : Int) := fun k => two_zpow_add k 970
  have hover : Overflows (y * 2 ^ q.exp) ↔ (2 ^ 54 - 1) * (2 : ℚ) ^ (970 : Int) ≤ y * 2 ^ q.exp := Iff.rfl
  have htop : (2 : ℚ) ^ 1024 = 2 ^ 54 * 2 ^ (970 : Int) := hmul 54
  rw [hover, FinFloat.value, htop]
  rcases lt_trichotomy q.exp 971 with hexp | hexp | hexp
  · have hu : (2 : ℚ) ^ q.exp ≤ 2 ^ (970 : Int) := two_zpow_le_iff.mpr (by omega)
    obtain ⟨hx, hv⟩ := reach_of_small_unit (two_zpow_pos q.exp) hu hup hnear
    exact iff_of_false hx hv
  · rw [hexp, show (2 : ℚ) ^ (971 : Int) = 2 * 2 ^ (970 : Int) from hmul 1]
    exact reach_of_last_unit hc hnear heven
  · have hu : 2 ^ 2 * (2 : ℚ) ^ (970 : Int) ≤ 2 ^ q.exp := (hmul 2).symm.trans_le (two_zpow_le_iff.mpr (by omega))
    obtain ⟨hx, hv⟩ := reach_of_great_unit hc hu (hlow.resolve_left (by omega)) hnear
    exact iff_of_true hx hv

/-- What RNE64 gives for `x`: its rounding, or no value where it overflows (R170). -/
def IsRne64 (x : ℚ) : Option FinFloat → Prop
  | some q => RoundsTo x q
  | none => Overflows x

theorem IsRne64.roundsTo (h : IsRne64 x (some q)) : RoundsTo x q := h

theorem IsRne64.overflows (h : IsRne64 x none) : Overflows x := h

theorem IsRne64.eq_none_iff {o : Option FinFloat} (h : IsRne64 x o) : o = none ↔ Overflows x := by
  cases o with
  | none => exact iff_of_true rfl h
  | some q => exact iff_of_false (Option.some_ne_none q) h.roundsTo.finite

/-- The overflow check of RNE64 on the nearest value. -/
theorem Nearest.isRne64 (h : Nearest x q) : IsRne64 x (if (2 : ℚ) ^ 1024 ≤ q.value then none else some q) := by
  split_ifs with htop
  · exact h.overflows_iff.mpr htop
  · exact ⟨mt h.overflows_iff.mp htop, h.expLow, h.binade, h.below, h.near, h.even⟩

theorem value_zero (e : Int) : (FinFloat.mk 0 e).value = 0 := by simp [FinFloat.value]

/-- A number of at most half the least unit is rounded to zero. -/
theorem roundsTo_zero (h0 : 0 ≤ x) (h : x ≤ 2 ^ (-1074 : Int) / 2) : RoundsTo x { mant := 0, exp := -1074 } := by
  have hlt : x < 2 ^ (53 + -1074 : Int) := by
    have : (2 : ℚ) ^ (-1074 : Int) < 2 ^ (53 + -1074 : Int) := two_zpow_lt_iff.mpr (by norm_num)
    linarith [two_zpow_pos (-1074)]
  have hnear : Nearest x { mant := 0, exp := -1074 } := by
    refine ⟨le_rfl, .inl rfl, hlt, ?_, fun _ => rfl⟩
    rwa [value_zero, sub_zero, abs_of_nonneg h0]
  have hfinite := hnear.isRne64
  rwa [value_zero, if_neg (not_le.mpr (pow_pos two_pos _))] at hfinite

variable {num den : Nat}

/-- The two integers that `rne64` divides are the ratio in units of `2^e`. -/
theorem ratio_eq_units (num : Nat) (hd : 0 < den) (e : Int) :
    (num : ℚ) / den = ((num * 2 ^ (-e).toNat : Nat) : ℚ) / ((den * 2 ^ e.toNat : Nat) : ℚ) * 2 ^ e := by
  have hdq : (den : ℚ) ≠ 0 := by exact_mod_cast hd.ne'
  simp only [Nat.cast_mul, Nat.cast_pow, Nat.cast_ofNat, ← two_zpow_mul e]
  field_simp

/-- `rne64` rounds a positive ratio: the exponent is that of its binade or the least, the significand the nearest even
quotient. -/
theorem nearest_divNearestEven (hn : 0 < num) (hd : 0 < den) (hexp : q.exp = max (floorLog2Ratio num den - 52) (-1074))
    (hmant : q.mant = divNearestEven (num * 2 ^ (-q.exp).toNat) (den * 2 ^ q.exp.toNat)) :
    Nearest ((num : ℚ) / den) q := by
  obtain ⟨hlow, hup⟩ := floorLog2Ratio_spec num den hn hd
  obtain ⟨hnear, heven⟩ := divNearestEven_spec (num * 2 ^ (-q.exp).toNat) (den * 2 ^ q.exp.toNat) (by positivity)
  rw [← hmant] at hnear heven
  refine ⟨by omega, ?_, hup.trans_le (two_zpow_le_iff.mpr (by omega)), ?_, ?_⟩
  · rcases max_choice (floorLog2Ratio num den - 52) (-1074) with h | h
    · exact .inr (by rwa [hexp, h, add_sub_cancel])
    · exact .inl (hexp.trans h)
  · rw [ratio_eq_units num hd q.exp]
    exact near_units_iff.mpr hnear
  · rw [ratio_eq_units num hd q.exp]
    exact fun htie => heven (tie_units_iff.mp htie)

/-- `rne64`'s check in integers is the check in the rationals. -/
theorem overflowCheck_iff (m : Nat) (e : Int) :
    2 ^ 1024 * 2 ^ (-e).toNat ≤ m * 2 ^ e.toNat ↔ (2 : ℚ) ^ 1024 ≤ (FinFloat.mk m e).value := by
  have hpos : (0 : ℚ) < 2 ^ (-e).toNat := by positivity
  rw [FinFloat.value, ← Nat.cast_le (α := ℚ)]
  simp only [Nat.cast_mul, Nat.cast_pow, Nat.cast_ofNat]
  rw [← two_zpow_mul e, ← mul_assoc, mul_le_mul_iff_left₀ hpos]

theorem isRne64_rne64 (num : Nat) (hd : 0 < den) : IsRne64 ((num : ℚ) / den) (rne64 num den) := by
  rcases Nat.eq_zero_or_pos num with rfl | hn
  · rw [Nat.cast_zero, zero_div]
    exact roundsTo_zero le_rfl (by positivity)
  · simp only [rne64, hn.ne', if_false, overflowCheck_iff]
    exact Nearest.isRne64 (nearest_divNearestEven hn hd rfl rfl)

/-! ## Powers of ten -/

/-- A power of ten with an integer exponent, as the quotient `powerOfTen` rounds. -/
theorem ten_zpow_eq_div (p : Int) : (10 : ℚ) ^ p = ((10 ^ p.toNat : Nat) : ℚ) / ((10 ^ (-p).toNat : Nat) : ℚ) := by
  rcases le_total 0 p with h | h
  · obtain ⟨n, rfl⟩ := Int.eq_ofNat_of_zero_le h
    simp
  · obtain ⟨n, hn⟩ := Int.eq_ofNat_of_zero_le (Int.neg_nonneg.mpr h)
    obtain rfl : p = -(n : Int) := by omega
    simp

theorem ten_zpow_le {a b : Int} (h : a ≤ b) : (10 : ℚ) ^ a ≤ 10 ^ b := zpow_le_zpow_right₀ (by norm_num) h

theorem Overflows.mono {y : ℚ} (hx : Overflows x) (h : x ≤ y) : Overflows y := le_trans hx h

theorem overflows_natCast_iff (n : Nat) : Overflows (n : ℚ) ↔ (2 ^ 54 - 1) * 2 ^ 970 ≤ n := by
  have hone : 1 ≤ 2 ^ 54 := by norm_num
  rw [Overflows, ← Nat.cast_le (α := ℚ)]
  simp only [Nat.cast_mul, Nat.cast_sub hone, Nat.cast_pow, Nat.cast_ofNat, Nat.cast_one]

/-- `10^309` exceeds every finite value by half a unit and more (R170). -/
theorem overflows_ten_zpow {p : Int} (hp : 309 ≤ p) : Overflows ((10 : ℚ) ^ p) := by
  have h309 : Overflows ((10 ^ 309 : Nat) : ℚ) := (overflows_natCast_iff _).mpr (by decide +kernel)
  rw [Nat.cast_pow, Nat.cast_ofNat, ← zpow_natCast] at h309
  exact h309.mono (ten_zpow_le hp)

/-- `10^308` is a finite value's (R170). -/
theorem not_overflows_ten_zpow {p : Int} (hp : p ≤ 308) : ¬Overflows ((10 : ℚ) ^ p) := by
  have h308 : ¬Overflows ((10 ^ 308 : Nat) : ℚ) := mt (overflows_natCast_iff _).mp (by decide +kernel)
  rw [Nat.cast_pow, Nat.cast_ofNat, ← zpow_natCast] at h308
  exact mt (·.mono (ten_zpow_le hp)) h308

/-- `10^-324` is under half of the least unit (R170). -/
theorem ten_zpow_le_half_unit {p : Int} (hp : p ≤ -324) : (10 : ℚ) ^ p ≤ 2 ^ (-1074 : Int) / 2 := by
  have hnat : ((2 ^ 1075 : Nat) : ℚ) ≤ ((10 ^ 324 : Nat) : ℚ) := Nat.cast_le.mpr (by decide +kernel)
  rw [Nat.cast_pow, Nat.cast_ofNat, Nat.cast_pow, Nat.cast_ofNat, ← zpow_natCast, ← zpow_natCast] at hnat
  calc (10 : ℚ) ^ p ≤ 10 ^ (-324 : Int) := ten_zpow_le hp
    _ = (10 ^ (324 : Int))⁻¹ := zpow_neg 10 324
    _ ≤ (2 ^ (1075 : Int))⁻¹ := inv_anti₀ (two_zpow_pos 1075) hnat
    _ = 2 ^ (-1075 : Int) := (zpow_neg 2 1075).symm
    _ = 2 ^ (-1074 : Int) / 2 := zpow_sub_one₀ two_ne_zero (-1074)

theorem isRne64_powerOfTen (p : Int) : IsRne64 ((10 : ℚ) ^ p) (powerOfTen p) := by
  unfold powerOfTen
  split_ifs with hhigh hlow
  · exact overflows_ten_zpow (by omega)
  · exact roundsTo_zero (by positivity) (ten_zpow_le_half_unit (by omega))
  · rw [ten_zpow_eq_div]
    exact isRne64_rne64 _ (by positivity)

/-- A power of ten whose odd part is below `2^53` is a binary64 value (R170). -/
theorem powerOfTen_exact {p : Nat} (hp : p ≤ 22) : ∃ P, powerOfTen p = some P ∧ P.value = 10 ^ p := by
  have hspec := isRne64_powerOfTen p
  cases hP : powerOfTen p with
  | none => exact absurd (hspec.eq_none_iff.mp hP) (not_overflows_ten_zpow (by omega))
  | some P =>
    rw [hP] at hspec
    have hsig : 5 ^ p < 2 ^ 53 := (Nat.pow_le_pow_right (by norm_num) hp).trans_lt (by norm_num)
    have hten : (10 : ℚ) ^ (p : Int) = ((5 ^ p : Nat) : ℚ) * 2 ^ (p : Int) := by
      rw [Nat.cast_pow, Nat.cast_ofNat, zpow_natCast, zpow_natCast, ← mul_pow]
      norm_num
    refine ⟨P, rfl, ?_⟩
    rw [hspec.roundsTo.nearest.value_eq_of_representable (5 ^ p) p hsig (by omega) hten, zpow_natCast]

/-- Settles O58: the rounding of every ratio, and the exact powers of ten. -/
theorem rne64IsNearestEven : Obligations.Rne64IsNearestEven := by
  refine ⟨fun num den hd => ?_, fun p hp => powerOfTen_exact hp⟩
  have hspec := isRne64_rne64 num hd
  refine ⟨fun q hq => ?_, hspec.eq_none_iff⟩
  rw [hq] at hspec
  exact hspec

end Rounding

/-! ## The default FLOAT_SCALE -/

section FloatScale

variable {f : Float64} {p v : Int} {P : FinFloat}

/-- The sign of a float on an integer (R170). -/
def withSign (f : Float64) (n : Int) : Int := if f.getLsbD 63 then -n else n

/-- FLOAT_SCALE of NaN and the infinities (R170). -/
theorem floatScale_notFinite (h : f.extractLsb' 52 11 = 0x7FF#11) (p : Int) : floatScale f p = none := by
  rw [floatScale, magnitude_notFinite f h]

/-- FLOAT_SCALE with an infinite power of ten (R170). -/
theorem floatScale_powerOverflows (hP : powerOfTen p = none) (f : Float64) : floatScale f p = none := by
  rw [floatScale, hP]
  cases magnitude f <;> rfl

/-- FLOAT_SCALE of a finite float, with a finite power of ten: the product rounded, truncated, with the float's sign
(R170). -/
theorem floatScale_finite (hf : f.extractLsb' 52 11 ≠ 0x7FF#11) (hP : powerOfTen p = some P) :
    ∃ o, IsRne64 (floatAbs f * P.value) o ∧ floatScale f p = o.map fun q => withSign f ⌊q.value⌋ := by
  obtain ⟨a, ha, hvalue⟩ := magnitude_value f hf
  obtain ⟨hprod, hden⟩ := productRatio_value a P
  have hspec := isRne64_rne64 (productRatio a P).1 hden
  rw [hprod, hvalue] at hspec
  refine ⟨_, hspec, ?_⟩
  simp only [floatScale, ha, hP, ← truncNat_floor]
  cases rne64 (productRatio a P).1 (productRatio a P).2 <;> rfl

/-- The magnitude of a finite float is a binary64 value, below the overflow bound (IEEE 754). -/
theorem floatAbs_representable (hf : f.extractLsb' 52 11 ≠ 0x7FF#11) :
    ∃ (m : Nat) (e : Int), m < 2 ^ 53 ∧ -1074 ≤ e ∧ e ≤ 971 ∧ floatAbs f = m * 2 ^ e := by
  have hfrac : (f.extractLsb' 0 52).toNat < 2 ^ 52 := BitVec.isLt _
  have hexp : (f.extractLsb' 52 11).toNat < 2 ^ 11 := BitVec.isLt _
  have hexp' : (f.extractLsb' 52 11).toNat ≠ 2047 := fun h => hf (BitVec.eq_of_toNat_eq h)
  unfold floatAbs
  split_ifs with hzero
  · exact ⟨(f.extractLsb' 0 52).toNat, -1074, by omega, le_rfl, by norm_num, rfl⟩
  · refine ⟨2 ^ 52 + (f.extractLsb' 0 52).toNat, ((f.extractLsb' 52 11).toNat : Int) - 1075, by omega, ?_, by omega, ?_⟩
    · have hne : (f.extractLsb' 52 11).toNat ≠ 0 := fun h => hzero (BitVec.eq_of_toNat_eq h)
      omega
    · push_cast; rfl

theorem not_overflows_representable {m : Nat} {e : Int} (hm : m < 2 ^ 53) (he : e ≤ 971) :
    ¬Overflows (m * (2 : ℚ) ^ e) := by
  have hm' : (m : ℚ) + 1 ≤ 2 ^ 53 := by exact_mod_cast hm
  have hle : (2 : ℚ) ^ e ≤ 2 * 2 ^ (970 : Int) := (two_zpow_le_iff.mpr he).trans_eq (two_zpow_add 1 970)
  rw [Overflows, not_le]
  calc (m : ℚ) * 2 ^ e ≤ m * (2 * 2 ^ (970 : Int)) := mul_le_mul_of_nonneg_left hle m.cast_nonneg
    _ = m * 2 * 2 ^ (970 : Int) := (mul_assoc _ _ _).symm
    _ < (2 ^ 54 - 1) * 2 ^ (970 : Int) := mul_lt_mul_of_pos_right (by linarith) (two_zpow_pos 970)

/-- Where the product is itself a binary64 value, FLOAT_SCALE truncates it (R170). -/
theorem floatScale_exact (hf : f.extractLsb' 52 11 ≠ 0x7FF#11) (hP : powerOfTen p = some P) {m : Nat} {e : Int}
    (hm : m < 2 ^ 53) (hlo : -1074 ≤ e) (hhi : e ≤ 971) (hprod : floatAbs f * P.value = m * 2 ^ e) :
    floatScale f p = some (withSign f ⌊floatAbs f * P.value⌋) := by
  obtain ⟨o, ho, hscale⟩ := floatScale_finite hf hP
  rw [hscale]
  cases o with
  | none => exact absurd ho.overflows (hprod ▸ not_overflows_representable hm hhi)
  | some q => rw [Option.map_some, ho.roundsTo.nearest.value_eq_of_representable m e hm hlo hprod]

/-- At precision 0 FLOAT_SCALE truncates the float (R170). -/
theorem floatScale_zero (hf : f.extractLsb' 52 11 ≠ 0x7FF#11) : floatScale f 0 = some (withSign f ⌊floatAbs f⌋) := by
  obtain ⟨P, hP, hone⟩ := powerOfTen_exact (Nat.zero_le 22)
  obtain ⟨m, e, hm, hlo, hhi, hvalue⟩ := floatAbs_representable hf
  have hprod : floatAbs f * P.value = floatAbs f := by rw [hone, pow_zero, mul_one]
  have hscale := floatScale_exact hf hP hm hlo hhi (hprod.trans hvalue)
  rwa [hprod] at hscale

/-- Minus zero is scaled to 0 wherever the power of ten is finite (R170; log 17). -/
theorem floatScale_minusZero (hp : p ≤ 308) : floatScale 0x8000000000000000 p = some 0 := by
  have hzero : floatAbs 0x8000000000000000 = 0 := by
    rw [floatAbs, if_pos (by decide)]
    exact mul_eq_zero_of_left rfl _
  cases hP : powerOfTen p with
  | none => exact absurd ((isRne64_powerOfTen p).eq_none_iff.mp hP) (not_overflows_ten_zpow hp)
  | some P =>
    have hprod : floatAbs 0x8000000000000000 * P.value = 0 := by rw [hzero, zero_mul]
    have hscale := floatScale_exact (f := 0x8000000000000000) (m := 0) (e := 0) (by decide) hP
      (by norm_num) (by norm_num) (by norm_num) (by rw [hprod, Nat.cast_zero, zero_mul])
    rw [hscale, hprod, Int.floor_zero]
    rfl

/-- The outcome Invalid of a finite float: one of the two roundings overflows (R170). -/
theorem floatScale_eq_none_iff (hf : f.extractLsb' 52 11 ≠ 0x7FF#11) (p : Int) :
    floatScale f p = none ↔ Overflows ((10 : ℚ) ^ p) ∨
      ∃ P : FinFloat, RoundsTo ((10 : ℚ) ^ p) P ∧ Overflows (floatAbs f * P.value) := by
  have hpow := isRne64_powerOfTen p
  cases hP : powerOfTen p with
  | none => exact iff_of_true (floatScale_powerOverflows hP f) (.inl (hpow.eq_none_iff.mp hP))
  | some P =>
    rw [hP] at hpow
    obtain ⟨o, ho, hscale⟩ := floatScale_finite hf hP
    rw [hscale, Option.map_eq_none_iff, ho.eq_none_iff]
    constructor
    · exact fun h => .inr ⟨P, hpow, h⟩
    · rintro (h | ⟨P', hP', h⟩)
      · exact absurd h hpow.roundsTo.finite
      · rwa [hpow.roundsTo.nearest.unique hP'.nearest]

/-- Every outcome but Invalid is the truncated rounded product (R170). -/
theorem floatScale_eq_some (h : floatScale f p = some v) :
    ∃ P q : FinFloat, RoundsTo ((10 : ℚ) ^ p) P ∧ RoundsTo (floatAbs f * P.value) q ∧ v = withSign f ⌊q.value⌋ := by
  have hf : f.extractLsb' 52 11 ≠ 0x7FF#11 := fun hf => by simp [floatScale_notFinite hf] at h
  have hpow := isRne64_powerOfTen p
  cases hP : powerOfTen p with
  | none => simp [floatScale_powerOverflows hP] at h
  | some P =>
    rw [hP] at hpow
    obtain ⟨o, ho, hscale⟩ := floatScale_finite hf hP
    obtain ⟨q, rfl, rfl⟩ := Option.map_eq_some_iff.mp (hscale.symm.trans h)
    exact ⟨P, q, hpow, ho, rfl⟩

/-- FLOAT_SCALE(12.34, 2), the value R170 names. -/
theorem floatScale_1234 : floatScale 0x4028AE147AE147AE 2 = some 1234 := by decide +kernel

/-- Settles O25: the two values are computed, the formula is the rounding of the power and of the product. -/
theorem floatScaleDefault : Obligations.FloatScaleDefault :=
  ⟨floatScale_1234, by decide +kernel, fun _ p hf => floatScale_notFinite hf p, fun _ hp => floatScale_minusZero hp,
    fun _ _ _ h => floatScale_eq_some h, fun _ p hf => floatScale_eq_none_iff hf p, fun _ hf => floatScale_zero hf⟩

end FloatScale

end Sys2Proof.Machine

/-! ## A block's own FLOAT_SCALE -/

namespace Sys2Proof.Params

variable {p : Parameters} {f : Float64} {precision : Int} {x : FloatPoint}

/-- The first point at some arguments decides there (U17). -/
theorem pointAt_first {before after : List FloatPoint}
    (h : ∀ y ∈ before, ¬(y.fvalue = x.fvalue ∧ y.precision = x.precision)) :
    pointAt x.fvalue x.precision (before ++ x :: after) = some x := by
  induction before with
  | nil => rw [List.nil_append, pointAt, if_pos ⟨rfl, rfl⟩]
  | cons y ys ih =>
    rw [List.cons_append, pointAt, if_neg (h y List.mem_cons_self)]
    exact ih fun z hz => h z (List.mem_cons_of_mem y hz)

/-- What holds of the default and of every point at some arguments holds of the block's FLOAT_SCALE there. -/
theorem scaleFloat_eq_some {v : Int} (hdefault : Machine.floatScale f precision = some v)
    (hpoints : ∀ x ∈ p.floatPoints, x.fvalue = f → x.precision = precision → x.scaled = some v) :
    scaleFloat p f precision = some v := by
  unfold scaleFloat
  split
  · obtain ⟨hmem, hf, hprecision⟩ := pointAt_mem ‹_›
    exact hpoints _ hmem hf hprecision
  · exact hdefault

/-- The two demands R170 makes of a replacement. -/
theorem floatPointLegal_iff : floatPointLegal x = true ↔
    (x.fvalue = 0x4028AE147AE147AE ∧ x.precision = 2 → x.scaled = some 1234) ∧
      (x.fvalue = 0x8000000000000000 → x.scaled = some 0) := by
  simp only [floatPointLegal, Bool.and_eq_true, Bool.or_eq_true, decide_eq_true_eq, imp_iff_not_or]

/-- Settles O59: the first point decides, without one the default does, and both meet the two demands. -/
theorem blockFloatScale : Obligations.BlockFloatScale := by
  intro p
  refine ⟨fun f precision h => scaleFloat_eq_floatScale h, fun before after x hp hfirst => ?first, fun hlegal => ?legal⟩
  case first => rw [scaleFloat, hp, pointAt_first hfirst]
  case legal =>
    obtain ⟨_, _, hpoints⟩ := legal_rest hlegal
    refine ⟨scaleFloat_eq_some Machine.floatScale_1234 fun x hx hf hprecision => ?_,
      fun precision hp => scaleFloat_eq_some (Machine.floatScale_minusZero hp) fun x hx hf _ => ?_⟩
    · exact (floatPointLegal_iff.mp (hpoints x hx)).1 ⟨hf, hprecision⟩
    · exact (floatPointLegal_iff.mp (hpoints x hx)).2 hf

end Sys2Proof.Params

/-! # Proofs of the family `42_sequencer.md`: acceptance of RAW, INIT and OFF, and the whole run of a command -/

/-! ## The acceptance of INIT, OFF and RAW -/

namespace Sys2Proof.Machine

variable {i : Instr} {s t u : State} {b : BitVec 3} {data xs : List Byte} {count : Nat}

theorem prepInit_ok {d : Byte} (hlo : 1 ≤ d.toNat) (hhi : d.toNat ≤ 6) :
    prepInit d s = .ok { s with cfgDigitNum := d.setWidth 3, cfgValid := true } := by
  rw [prepInit, if_neg (by simp only [Config.cap]; omega)]

/-- Settles O27: in range the check passes, and three bits hold the count; INIT has no micro-operations. -/
theorem initCompletes : Obligations.InitCompletes := by
  intro b d s hb hlo hhi
  have hdigits : (d.setWidth 3).toNat = d.toNat := by rw [BitVec.toNat_setWidth]; omega
  exact ⟨_, accept_ok hb (prepInit_ok hlo hhi), by constructor <;> rfl, rfl, hdigits, rfl, rfl, rfl, rfl⟩

/-- Settles O33: OFF is latched on the state as it is, and its list is one frame. -/
theorem offCompletes : Obligations.OffCompletes := by
  intro b s hb hc
  exact ⟨_, accept_ok hb (requireConfig_configured hc), by constructor <;> rfl, ⟨rfl, rfl⟩, rfl, rfl, rfl, rfl⟩

/-- RAW with enough bytes is accepted with the clamped number of them loaded (R191, R194). -/
theorem exec_raw (hb : s.busy = false) (hc : s.cfgValid = true) (hlen : min count s.digits ≤ data.length) :
    exec (.raw b data count) s =
      .next ((s.loadDbuf (data.take (min count s.digits))).latch (.raw b data count)) :=
  accept_ok hb (by rw [requireConfig_configured hc, prepRaw, if_neg hlen.not_gt])

theorem ops_loadDbuf (hi : i.displayBright = some b) (hlen : xs.length ≤ 6) :
    ((s.loadDbuf xs).latch i).ops = displayOps s.params b xs := by
  have hdata : ((s.loadDbuf xs).latch i).phase2Data = xs := phase2Data_loadDbuf xs s hlen
  rw [State.ops, State.latch_cur, hdata]
  exact opsOf_display hi s.params xs

/-- Settles O28: the bytes loaded are the first `min(count, D)`, and the writes begin at index 0. -/
theorem rawCompletes : Obligations.RawCompletes := by
  intro b data count s hb hc hd hdata
  have hlen : (data.take (min count s.digits)).length = min count s.digits := List.length_take_of_le hdata
  have hcap : min count s.digits ≤ 6 := (min_le_right _ _).trans hd
  refine ⟨_, exec_raw hb hc hdata, by constructor <;> rfl, ⟨rfl, rfl⟩, rfl, ?_, fun k => ?_,
    ops_loadDbuf rfl (hlen.trans_le hcap)⟩
  · rw [State.latch_dcount, State.loadDbuf_dcount, hlen, toNat_dcount _ hcap]
  · rw [State.latch_dbuf, State.loadDbuf_dbuf, Fin.getElem_fin, writeFrom_get _ _ _ _ k.isLt, hlen]
    by_cases hk : (k : Nat) < min count s.digits
    · simp [hk, List.getD]
    · simp [hk]

/-- Settles O34: the window has `D` bytes, so RAW of it passes its check and loads all of it. -/
theorem delegationToRaw : Obligations.DelegationToRaw := by
  intro i b s t hi hraw hidle hd ht hbusy
  obtain ⟨enc, hexec⟩ := exec_encoding (by simp [hi]) hraw
  rw [hexec] at ht
  rcases encoded_cases ht with rfl | ⟨r, rfl⟩ | ⟨_, hc, e, _, rfl⟩
  · simp [hidle] at hbusy
  · simp [hidle] at hbusy
  · rw [State.latch_ebuf, State.loadWindow_ebuf]
    have hlen : (window e s.digits).length = s.digits := window_length e s.digits hd
    have hu := exec_raw (b := b) (count := s.digits) hidle hc ((min_self _).trans_le hlen.ge)
    rw [min_self, List.take_of_length_le hlen.le] at hu
    refine ⟨_, hu, ?_, rfl⟩
    rw [State.actions, State.actions, ops_loadDbuf rfl (hlen.trans_le hd), ops_loadWindow hi e hd]

/-- Settles O35: of all outcomes of an instruction only the load of the transmit buffer leaves an idle block busy with a
display command. -/
theorem transmitLength : Obligations.TransmitLength := by
  intro i s t hi hidle hd ht hbusy
  rcases exec_cases ht with rfl | ⟨r, rfl⟩ | ⟨b, d, rfl, _⟩ | ⟨_, m, rfl⟩ | ⟨b, rfl, _⟩ | ⟨xs, e, _, _, _, hlen, rfl⟩
  · simp [hidle] at hbusy
  · simp [hidle] at hbusy
  · exact absurd rfl hi
  · simp [hidle] at hbusy
  · exact absurd rfl hi
  · have hcap : xs.length ≤ 6 := hlen.trans hd
    have hcount : (BitVec.ofNat 3 xs.length).toNat = xs.length := toNat_dcount _ hcap
    exact ⟨hcount.trans_le hlen, hd, (congrArg List.length (phase2Data_loadDbuf xs _ hcap)).trans hcount.symm⟩

/-! ## The answers an action list takes -/

theorem length_answers (s : State) (n : Nat) : (s.answers n).length = n := by simp [State.answers]

theorem answers_one (s : State) : s.answers 1 = [s.receiverLevel] := by
  cases h : s.dioIn <;> simp [State.answers, State.receiverLevel, h]

/-- Where `m` answers were taken, the next ones are those that came after them (R12). -/
theorem answers_add {m : Nat} (n : Nat) (hdioIn : t.dioIn = s.dioIn.drop m) (hdraws : t.draws = s.draws + m) :
    s.answers (m + n) = s.answers m ++ t.answers n := by
  simp [State.answers, List.range_add, hdioIn, hdraws, List.getD, Nat.add_assoc]

/-- The first part of a list records the first answers, one for each of its SAMPLEs. -/
theorem eventsOf_append {as bs : List Action} {ls ks : List Level} (h : ls.length = sampleCount as) :
    eventsOf (as ++ bs) (ls ++ ks) = eventsOf as ls ++ eventsOf bs ks := by
  induction as generalizing ls with
  | nil => cases List.length_eq_zero_iff.mp h; rfl
  | cons a as ih =>
    cases a with
    | sample =>
      cases ls with
      | nil => simp [sampleCount] at h
      | cons l ls => simp [eventsOf, ih (ls := ls) (by simpa [sampleCount] using h)]
    | _ => simp [eventsOf, ih (ls := ls) (by simpa [sampleCount] using h)]

/-- `t` is `s` after a list whose SAMPLEs read the receiver's next answers: they are in the record and in `acc`, and used
up (R12, R30, R106). -/
structure State.Answered (as : List Action) (s t : State) : Prop where
  trace : t.trace = (eventsOf as (s.answers (sampleCount as))).reverse ++ s.trace
  acc : t.acc = (s.acc && !(s.answers (sampleCount as)).any id)
  dioIn : t.dioIn = s.dioIn.drop (sampleCount as)
  draws : t.draws = s.draws + sampleCount as

theorem State.Answered.append {as bs : List Action} (hs : State.Answered as s t) (ht : State.Answered bs t u) :
    State.Answered (as ++ bs) s u := by
  have hanswers := answers_add (sampleCount bs) hs.dioIn hs.draws
  have hevents := eventsOf_append (bs := bs) (ks := t.answers (sampleCount bs)) (length_answers s (sampleCount as))
  constructor
  · rw [ht.trace, hs.trace, sampleCount_append, hanswers, hevents]
    simp
  · rw [ht.acc, hs.acc, sampleCount_append, hanswers]
    simp [Bool.and_assoc]
  · rw [ht.dioIn, hs.dioIn, sampleCount_append, List.drop_drop]
  · rw [ht.draws, hs.draws, sampleCount_append, Nat.add_assoc]

theorem answered_of_sample_not_mem {as : List Action} (h : Action.sample ∉ as) (s : State) :
    State.Answered as s (runActions as s) := by
  have hcount : sampleCount as = 0 := List.countP_eq_zero.mpr fun a ha => by
    rw [decide_eq_true_eq]; rintro rfl; exact h ha
  obtain ⟨_, hacc, hdioIn, hdraws⟩ := runActions_flags as s h
  constructor
  · rw [hcount]; exact runActions_trace as s h
  · rw [hcount, hacc]; exact (Bool.and_true _).symm
  · rw [hcount]; exact hdioIn
  · rw [hcount]; exact hdraws

/-- SENDBYTE's SAMPLE listens wherever the lines were, and START and STOP have none (R101-R109). -/
theorem answered_microActions (m : MicroOp) (s : State) :
    State.Answered (microActions m) s (runActions (microActions m) s) := by
  cases m with
  | start => exact answered_of_sample_not_mem (by decide) s
  | sendByte b =>
    have hsent := runActions_sendByte b s
    rw [microActions]
    constructor <;> rw [sampleCount_sendByte]
    · rw [answers_one]; exact hsent.trace
    · rw [answers_one]; simpa using hsent.acc
    · rw [List.drop_one]; exact hsent.dioIn
    · exact hsent.draws
  | stop => exact answered_of_sample_not_mem (by decide) s

theorem answered_actionsOf (ms : List MicroOp) (s : State) :
    State.Answered (actionsOf ms) s (runActions (actionsOf ms) s) := by
  induction ms generalizing s with
  | nil => exact answered_of_sample_not_mem List.not_mem_nil s
  | cons m ms ih =>
    rw [actionsOf_cons, runActions_append]
    exact (answered_microActions m s).append (ih _)

/-! ## The whole run of a command -/

/-- `s` after the steps that follow the end of its list: done, with the DIAG before it if `acc = 0` (R31, R201). -/
def State.completed (s : State) : State :=
  State.finish { s with trace := (if s.acc then [] else [.diag Config.diagText]) ++ s.trace }

theorem completed_of_acc (hacc : s.acc = true) : s.completed = s.finish := by
  rw [State.completed, if_pos hacc]
  rfl

theorem completed_of_not_acc (hacc : s.acc = false) :
    s.completed = State.finish { s with trace := .diag Config.diagText :: s.trace, diagSent := true } := by
  simp [State.completed, State.finish, State.emit, hacc]

theorem run_completion (hr : s.rst = false) (hf : s.framerIn = none) (hb : s.busy = true)
    (hpc : s.actions.length ≤ s.pc) (hd : s.diagSent = false) :
    core.run (if s.acc then 1 else 2) s = .next s.completed := by
  have hstep := step_complete hr hf hb hpc
  rcases complete_cases s with ⟨hacc, _, hc⟩ | ⟨hdone, hc⟩ <;> rw [hc] at hstep
  · have hstep' : step { s with trace := .diag Config.diagText :: s.trace, diagSent := true } = .next _ :=
      step_complete hr hf hb hpc
    have hc' : complete { s with trace := .diag Config.diagText :: s.trace, diagSent := true } =
        State.finish { s with trace := .diag Config.diagText :: s.trace, diagSent := true } := by simp [complete]
    rw [if_neg (by simp [hacc]), completed_of_not_acc hacc, ← hc']
    exact (run_next 1 hstep).trans (run_next 0 hstep')
  · have hacc : s.acc = true := hdone.resolve_right (by simp [hd])
    rw [if_pos hacc, completed_of_acc hacc]
    exact run_next 0 hstep

/-- The whole run of an accepted command (R192, R201). -/
theorem run_command (hs : s.Accepted i) :
    core.run (s.actions.length + if (runActions s.actions s).acc then 1 else 2) s =
      .next (State.completed { runActions s.actions s with pc := s.actions.length }) := by
  have hrun := run_accepted hs le_rfl
  rw [List.take_length] at hrun
  have hactions : ({ runActions s.actions s with pc := s.actions.length } : State).actions = s.actions := by
    apply actions_congr <;> simp
  rw [run_add _ hrun]
  exact run_completion (by simp [hs.notReset]) (by simp [hs.noFramerWord]) (by simp [hs.busy])
    (congrArg List.length hactions).le (by simp [hs.diag])

/-- Settles O45: the list runs to its end with the answers in the record and in `acc`, which says how the command
completes. -/
theorem commandRunsToCompletion : Obligations.CommandRunsToCompletion := by
  intro s i hs levels hlevels
  have hlen : levels.length = sampleCount s.actions := hlevels ▸ length_answers s _
  obtain ⟨htrace, hacc, hdioIn, hdraws⟩ := answered_actionsOf s.ops s
  rw [← State.actions, ← hlevels] at htrace hacc
  rw [← State.actions, ← hlen] at hdioIn hdraws
  rw [hs.acc, Bool.true_and] at hacc
  have hsteps : (if levels.any id then 2 else 1) = if (runActions s.actions s).acc then 1 else 2 := by
    rw [hacc]; cases levels.any id <;> rfl
  have hrun := run_command hs
  rw [← hsteps] at hrun
  obtain ⟨hparams, hcfgValid, hcfgDigitNum, _, _, _, _, _, hebuf, hdbuf, hdcount, hrefused, _, hhost, _⟩ :=
    runActions_sameBeside s.actions s
  refine ⟨_, hrun, ?_, hacc, rfl, rfl, rfl, runActions_lines s.actions s,
    ⟨hcfgValid, hcfgDigitNum⟩, hebuf, hdbuf, hdcount, hrefused, hhost, hparams, hdioIn, hdraws, fun hany => ?_⟩
  · rw [State.completed, State.finish_trace, hacc, htrace]
    cases levels.any id <;> rfl
  · have hfailed : (runActions s.actions s).acc = false := by rw [hacc, hany]; rfl
    exact ⟨(runActions s.actions s).rcv.unknowns,
      by simp [State.completed, hfailed, Receiver.afterCommand, Receiver.unknown]⟩

end Sys2Proof.Machine

/-! # Proofs of the family `60_exceptions.md`: the sticky mark of a refusal, and that every step answers -/

namespace Sys2Proof.Machine

variable {s t : State} {i : Instr} {c : Code}

/-! ## The mark of a refusal -/

/-- From `s` to `t` nothing was refused: the mark is as it was, and no `rej` event was recorded (R243, R245). -/
structure State.RefusesNothing (s t : State) : Prop where
  mark : t.refused = s.refused
  record : ∀ code, t.trace ≠ .rej code :: s.trace

/-- A state with the same mark and the same record refuses nothing. -/
theorem State.RefusesNothing.of_trace_eq (hmark : t.refused = s.refused) (htrace : t.trace = s.trace) :
    s.RefusesNothing t :=
  ⟨hmark, fun _ h => List.cons_ne_self _ _ (h.symm.trans htrace)⟩

/-- Every event of a line action records that action, and a `rej` event records none. -/
theorem runActions_refusesNothing (as : List Action) (s : State) : s.RefusesNothing (runActions as s) := by
  refine ⟨runActions_refused as s, fun code h => ?_⟩
  have hevents := runActions_trace_actions as s
  rw [h, List.map_cons, ← List.singleton_append, List.append_cancel_right_eq] at hevents
  have hmem : none ∈ (as.map some).reverse := hevents ▸ List.mem_singleton_self _
  simp at hmem

theorem busyStep_refusesNothing (s : State) : s.RefusesNothing (busyStep s) := by
  obtain ⟨_, _, _, hrefused, _⟩ := busyStep_keeps s
  exact ⟨hrefused, busyStep_trace_ne_rej s⟩

theorem takeReset_refusesNothing (s : State) : s.RefusesNothing (takeReset s) :=
  ⟨rfl, fun code h => by cases h⟩

/-- An instruction that leaves the block unmarked refused nothing. -/
theorem exec_marks_or_refusesNothing (h : exec i s = .next t) : t.refused = true ∨ s.RefusesNothing t := by
  rcases exec_cases h with rfl | ⟨r, rfl⟩ | ⟨_, _, _, _, _, _, rfl⟩ | ⟨_, m, rfl⟩ | ⟨_, _, _, _, rfl⟩ |
    ⟨_, _, _, _, _, _, rfl⟩
  · exact .inr (.of_trace_eq rfl rfl)
  · exact .inl (s.refuse_refused r)
  · exact .inr (.of_trace_eq rfl rfl)
  · exact .inr (runActions_refusesNothing (microActions m) s)
  · exact .inr (.of_trace_eq rfl rfl)
  · exact .inr (.of_trace_eq rfl rfl)

theorem runCode_marks_or_refusesNothing (h : runCode c s = .next t) : t.refused = true ∨ s.RefusesNothing t := by
  rcases runCode_cases h with ⟨_, _, hx⟩ | ⟨r, rfl⟩
  · exact exec_marks_or_refusesNothing hx
  · exact .inl (s.refuse_refused r)

/-- Every step sets the mark or refuses nothing; taking a word or a request from its port changes neither the mark nor
the record. -/
theorem step_marks_or_refusesNothing (h : step s = .next t) : t.refused = true ∨ s.RefusesNothing t := by
  rcases step_cases h with ⟨_, rfl⟩ | ⟨_, f, _, hrun⟩ | ⟨_, _, _, rfl⟩ | ⟨_, _, _, _, rfl⟩ |
    ⟨_, _, _, req, rest, _, hrun⟩
  · exact .inr (takeReset_refusesNothing s)
  · exact (runCode_marks_or_refusesNothing hrun).imp_right fun ⟨hmark, hrecord⟩ => ⟨hmark, hrecord⟩
  · exact .inr (busyStep_refusesNothing s)
  · exact .inr (.of_trace_eq rfl rfl)
  · exact (runCode_marks_or_refusesNothing hrun).imp_right fun ⟨hmark, hrecord⟩ => ⟨hmark, hrecord⟩

/-- Settles O38: a step that does not set the mark keeps it and records no `rej` event. -/
theorem refusedMarkIsSticky : Obligations.RefusedMarkIsSticky := by
  intro s t h
  rcases step_marks_or_refusesNothing h with hset | ⟨hmark, hrecord⟩
  · exact ⟨fun _ => hset, fun _ _ => hset⟩
  · exact ⟨hmark.trans, fun code htrace => absurd htrace (hrecord code)⟩

/-! ## Every step answers -/

/-- A request is run or refused, never a fault (R74, R240). -/
theorem exists_runCode_host (r : Request) (s : State) : ∃ t, runCode (.host r) s = .next t := by
  cases hdec : decode s.params (.host r) with
  | ok i =>
    rw [runCode_ok hdec]
    exact exec_next i s
  | error e =>
    rw [runCode_error hdec]
    rcases reserved_of_decode hdec with rfl | rfl <;> exact ⟨_, rfl⟩

/-- Settles O10: without a word in the framer port a step is reset, the running command's, idle, or a request's. -/
theorem stepAlwaysAnswers : Obligations.StepAlwaysAnswers := by
  intro s hf
  cases hr : s.rst with
  | true => exact ⟨_, step_rst hr⟩
  | false =>
    cases hb : s.busy with
    | true => exact ⟨_, step_busy hr hf hb⟩
    | false =>
      cases hhost : s.host with
      | nil => exact ⟨s, idleStays s ⟨hr, hf, hb⟩ hhost⟩
      | cons req rest =>
        rw [step_host ⟨hr, hf, hb⟩ hhost]
        exact exists_runCode_host req _

end Sys2Proof.Machine

/-! # Proofs of the family `70_reset_and_hazards.md`: the bound on a command's completion -/

namespace Sys2Proof.Machine

variable {s : State} {i : Instr}

/-- No list is longer than a display command's: OFF has one frame of one byte, every other command none (R193, R200). -/
theorem length_actionsOf_opsOf_le (p : Parameters) (i : Instr) (data : List Byte) :
    (actionsOf (opsOf p i data)).length ≤ 168 + 47 * data.length := by
  have display : ∀ b, (actionsOf (displayOps p b data)).length ≤ 168 + 47 * data.length :=
    fun b => (length_display p b data).le
  cases i with
  | raw b _ _ => exact display b
  | bcd b _ _ => exact display b
  | ascii b _ => exact display b
  | int b _ _ => exact display b
  | float b _ _ => exact display b
  | off _ =>
    have hoff : (actionsOf (frameOps [p.ctrlOffByte])).length = 56 := length_frame [p.ctrlOffByte]
    exact hoff.trans_le (by omega)
  | _ => exact Nat.zero_le _

/-- Phase 2 sends at most the capacity of `dbuf`, whatever `dcount` holds (R33). -/
theorem length_phase2Data_le (s : State) : s.phase2Data.length ≤ 6 :=
  (List.length_take_le' _ _).trans_eq s.dbuf.length_toList

/-- The bound of R288: three frames with six data bytes in the second are `168 + 47 * 6` actions. -/
theorem length_actions_le (hcur : s.cur = some i) : s.actions.length ≤ 450 := by
  have hops := length_actionsOf_opsOf_le s.params i s.phase2Data
  have hdata := length_phase2Data_le s
  simp only [State.actions, State.ops, hcur]
  omega

/-- Settles O46: the list is within the bound, and after it come the done step and at most one DIAG. -/
theorem boundedCompletion : Obligations.BoundedCompletion := by
  intro s i hs
  have hlen := length_actions_le hs.cur
  have hend : (if (runActions s.actions s).acc then 1 else 2) ≤ 2 := by split <;> decide
  exact ⟨hlen, _, _, Nat.add_le_add hlen hend, run_command hs, rfl⟩

end Sys2Proof.Machine
